-- ==== Sys2Proof/Word.lean ====
section
/-! DEFINITION. The widths of the block's words: 10-bit raw readings, 16-bit samples and bus data, 32-bit bins
(spec/00_scope.md R8, R9), the 8-bit bus offset (R9), the 32-bit BUS descriptor and the 13-bit EVT vector
(spec/30_encoding.md R71, R72). Bit 0 is the least significant bit everywhere (R12). -/

namespace Sys2Proof

/-- A raw conversion, unsigned in [0, 1023] (R8, ADC_MAX). -/
abbrev RawReading := BitVec 10

/-- A window sample, a 16-bit two's-complement integer (R9, SAMPLE_WIDTH). -/
abbrev Sample := BitVec 16

/-- A spectrum bin, a 32-bit two's-complement integer (R9, BIN_WIDTH). -/
abbrev BinWord := BitVec 32

/-- The data of one host access (R9, BUS_DATA_WIDTH). -/
abbrev BusData := BitVec 16

/-- A byte offset inside the block (R9, BUS_ADDR_WIDTH). -/
abbrev Offset := BitVec 8

/-- A host access written as one transaction descriptor (R71). -/
abbrev BusWord := BitVec 32

/-- The environment inputs sampled together (R72). -/
abbrev EvtWord := BitVec 13

end Sys2Proof
end

