-- ==== Sys2Proof/Config.lean ====
section
/-! DEFINITION. The block's configuration (spec/00_scope.md R10) as plain data, the configuration of the platform as an
uninterpreted constant, and the one free value of the model (spec/93_implementation_defined.md U1). -/

namespace Sys2Proof

/-- The open parameters of R10, each in a type that holds exactly the values R10 admits, so that no configuration
of this type is one that R11 refuses. `scaleDivPred` is SCALE_DIV less one: SCALE_DIV lies in [1, 2^31 - 1] and the
block never divides by zero (log entry 2). `base` is BASE, the platform's address of the register space, which no rule reads (U12). -/
structure Params where
  calOffset    : BitVec 10
  sineTable    : Vector (BitVec 16) 32
  scaleDivPred : Fin 2147483647
  base         : Nat
deriving DecidableEq, Repr, Inhabited

/-- The configuration the platform fixes before RESET is released (R253). The spec leaves every value open (R10), so
this constant has no body: no proof can see a value of it. -/
opaque Config.platform : Params

/-- What a host read of an unwritten window slot returns (U1: any value). Free: nothing constrains it. The first
argument is the model's counter `State.epoch`, which every operation but a read advances, so that two reads with no other
operation between them agree (spec/20_memory.md R56) and nothing else is promised. -/
opaque Config.unwrittenWin : Nat → Fin 32 → Sample

end Sys2Proof
end

