-- ==== Sys2Proof/Syntax.lean ====
section
/-! DEFINITION. The operations of the block, one constructor per row of spec/opcode_table.json (spec/30_encoding.md R82),
and the three formats an operation is written in (R70). -/

namespace Sys2Proof

/-- One operation (spec/00_scope.md R3). Bits the spec ignores (A[0] of a register access, D of a read) are no operands. -/
inductive Instr where
  /-- CMD_NOP, R182. -/
  | cmdNop
  /-- CMD_ARM, R181. -/
  | cmdArm
  /-- CMD_START, R140. -/
  | cmdStart
  /-- CMD_CLRERR, R183. -/
  | cmdClrerr
  /-- CMD_RSVD, R184: its operand is the data word. -/
  | cmdRsvd (d : BusData)
  /-- WR_OTHER, R186: its operands are the offset and the data word. -/
  | wrOther (a : Offset) (d : BusData)
  /-- RD_CMD, R187. -/
  | rdCmd
  /-- RD_STATUS, R188. -/
  | rdStatus
  /-- RD_FILL, R189. -/
  | rdFill
  /-- RD_ERR, R190. -/
  | rdErr
  /-- RD_CALOFS, R191. -/
  | rdCalofs
  /-- RD_WIN(i), R192. -/
  | rdWin (i : Fin 32)
  /-- RD_BINLO(u), R193. -/
  | rdBinlo (u : Fin 16)
  /-- RD_BINHI(u), R194. -/
  | rdBinhi (u : Fin 16)
  /-- RD_BINC(u), R195. -/
  | rdBinc (u : Fin 16)
  /-- RD_RSVD, R196: the reserved offset that is read. -/
  | rdRsvd (a : Offset)
  /-- RESET, R250. -/
  | reset
  /-- CONV_DONE(raw), R102. -/
  | convDone (raw : RawReading)
  /-- TICK, R100. -/
  | tick
  /-- XFORM_DONE, R143: the internal step of the transform engine. -/
  | xformDone
deriving DecidableEq, Repr

/-- The three formats of R70: a BUS descriptor, an EVT vector, and the internal step that no outside agent issues and
that has no encoding. -/
inductive Encoding where
  | bus (w : BusWord)
  | evt (v : EvtWord)
  | internal
deriving DecidableEq, Repr

end Sys2Proof
end

