-- ==== Sys2Proof/Machine/State.lean ====
section
/-! DEFINITION. The block's state (spec/10_state.md), the outputs of its last transition, the inputs the environment has
laid out for it, and the names under which a step stops. -/

namespace Sys2Proof.Machine

/-- The inputs of one clock cycle of a clocked realisation (spec/60_exceptions.md R228): the EVT vector, the host access if
there is one, and whether the transform engine completes. A cycle that holds one operation is one step of one agent
(spec/10_state.md R20), so a list of cycles expresses every interleaving and every simultaneous event. -/
structure Cycle where
  evt    : EvtWord
  bus    : Option BusWord
  engine : Bool
deriving DecidableEq, Repr

/-- A cycle with no input: the vector with R = T = C = 0, no host access, no engine step. -/
def Cycle.empty : Cycle := { evt := 0, bus := none, engine := false }

/-- The acquisition state (R23). -/
inductive Acq where
  | collecting
  | full
deriving DecidableEq, Repr

/-- The errors a host command can raise (spec/60_exceptions.md R220). -/
inductive Err where
  | rsvdCmd
  | startNotReady
  | startBusy
  | armNotReady
  | armBusy
deriving DecidableEq, Repr

/-- The state of the model. -/
structure State where
  /-- CAL_OFFSET, SINE_TABLE, SCALE_DIV, BASE: the argument R10 asks a model to take. It is configuration, not state of the
  block (R21): no operation writes it. DEDUCED, log entry 2. -/
  cfg : Params
  /-- READY (R24). -/
  ready : Bool
  /-- SAMPLING (R25). -/
  sampling : Bool
  /-- FILL, the fill index (R26). -/
  fill : BitVec 5
  /-- PENDING (R27). -/
  pending : Bool
  /-- WIN[0..31] (R28). -/
  win : Vector Sample 32
  /-- Which WIN[i] a CONV_DONE has written since the last RESET (R28, R192): the others hold no value. -/
  winWritten : Vector Bool 32
  /-- BUSY (R29). -/
  busy : Bool
  /-- DONE (R30). -/
  done : Bool
  /-- OVF (R31). -/
  ovf : Bool
  /-- BIN[0..15] (R32). -/
  bin : Vector BinWord 16
  /-- ERRCODE (R34). -/
  errcode : BitVec 4
  /-- The output conv_req during the last step (R36). Held in the state by DESIGN CHOICE, log entry 5. -/
  convReq : Bool
  /-- The value the last step returned to the host, if it was a read (spec/00_scope.md R15, MemRead). DESIGN CHOICE, log
  entry 5. -/
  readData : Option BusData
  /-- The model's own counter for the free value of an unwritten window slot (U1). DESIGN CHOICE, log entry 4. -/
  epoch : Nat
  /-- The inputs the environment has yet to deliver, first the next. DESIGN CHOICE, log entry 1. -/
  agenda : List Cycle
deriving DecidableEq, Repr

/-- The block has no traps and no fault (R225): nothing raises one. -/
inductive Fault where
deriving DecidableEq, Repr

/-- Why a step is refused. -/
inductive Refusal where
  /-- Raised by an arm of `exec` that has no meaning yet; none is left. Safe. -/
  | notModelled (mnemonic : String)
  /-- Raised by `step` when the next host access is a descriptor with Z other than 0: it is not a transaction, and a decoder
  refuses it (R75, U8). Safe: the bus cannot carry one. Log entry 7. -/
  | notATransaction
  /-- Raised by XFORM_DONE while BUSY = 0: the step is enabled only while BUSY = 1 and a model offers no such step (R143).
  Safe: the hardware takes no such step. Log entry 6. -/
  | xformDoneNotEnabled
deriving DecidableEq, Repr

/-- The state right after RESET under a given configuration (R250), with nothing laid out to happen. WIN holds no value:
every slot is marked unwritten, and the word stored behind it is never read (log entry 3). -/
def State.resetWith (p : Params) : State :=
  { cfg := p
    ready := false
    sampling := true
    fill := 0
    pending := false
    win := Vector.replicate 32 0
    winWritten := Vector.replicate 32 false
    busy := false
    done := false
    ovf := false
    bin := Vector.replicate 16 0
    errcode := 0
    convReq := false
    readData := none
    epoch := 0
    agenda := [] }

/-- The machine right after reset, on the platform's own configuration (log entry 2). How operations come to run from here:
log entry 1. -/
def State.reset : State := State.resetWith Config.platform

end Sys2Proof.Machine
end

