-- ==== Sys2Proof/Machine/Operands.lean ====
section
/-! DEFINITION. The values the rules compute: the arithmetic primitives (spec/00_scope.md R12, R13), the sample of a raw
reading (spec/40_acquisition.md R101), and the bin function (spec/41_transform.md R144 to R152), each written over the
configuration and the window alone. -/

namespace Sys2Proof.Machine

/-! ## Configuration values (R10) -/

/-- CAL_OFFSET as an integer in [0, 1023]. -/
def calOffset (p : Params) : Int := p.calOffset.toNat

/-- SINE_TABLE[i], a 16-bit two's-complement value; the domain of the table is [0, 31] (R37). -/
def sine (p : Params) (i : Nat) : Int := (p.sineTable.get (Fin.ofNat 32 i)).toInt

/-- SCALE_DIV, an integer in [1, 2^31 - 1]. -/
def scaleDiv (p : Params) : Int := (p.scaleDivPred.val : Int) + 1

/-! ## Arithmetic primitives (R12, R13) -/

/-- The unique integer in [-2^31, 2^31 - 1] congruent to v modulo 2^32. -/
def wrap32 (v : Int) : Int := Int.bmod v 4294967296

/-- Division truncated toward zero. -/
def tdiv (a d : Int) : Int := a.tdiv d

/-- v lies outside the range of a 32-bit two's-complement register. -/
def outside32 (v : Int) : Bool := decide (v < -2147483648) || decide (2147483647 < v)

/-- The clip of a bin to [0, 14] (R152). -/
def clip (v : Int) : Int := min (max v 0) 14

/-! ## Samples -/

/-- sample(raw) = (raw - CAL_OFFSET) * 8 (R101). -/
def sampleValue (p : Params) (raw : RawReading) : Int := ((raw.toNat : Int) - calOffset p) * 8

/-- The 16-bit pattern of the sample, as it is stored in the window. -/
def sample (p : Params) (raw : RawReading) : Sample := BitVec.ofInt 16 (sampleValue p raw)

/-! ## The bin function -/

/-- A window as the transform reads it. -/
abbrev Window := Fin 32 → Int

/-- p(u, k), the phase index (R144). -/
def phase (u k : Nat) : Nat := (u * k) % 32

/-- The sine index (R144). -/
def sidx (u k : Nat) : Nat := phase u k

/-- The cosine index, reduced modulo 32 (R144, spec/90_conflicts.md C2). -/
def cidx (u k : Nat) : Nat := (phase u k + 8) % 32

/-- pc(u, k) (R145). -/
def prodCos (p : Params) (x : Window) (u k : Nat) : Int := x (Fin.ofNat 32 k) * sine p (cidx u k)

/-- ps(u, k) (R145). -/
def prodSin (p : Params) (x : Window) (u k : Nat) : Int := x (Fin.ofNat 32 k) * sine p (sidx u k)

/-- re_k, the 32-bit accumulator after k samples (R146). -/
def reAcc (p : Params) (x : Window) (u : Nat) : Nat → Int
  | 0 => 0
  | k + 1 => wrap32 (reAcc p x u k + prodCos p x u k)

/-- im_k, accumulated by subtraction (R146). -/
def imAcc (p : Params) (x : Window) (u : Nat) : Nat → Int
  | 0 => 0
  | k + 1 => wrap32 (imAcc p x u k - prodSin p x u k)

/-- RE_k, the exact partial sum (R147). -/
def reExact (p : Params) (x : Window) (u : Nat) : Nat → Int
  | 0 => 0
  | k + 1 => reExact p x u k + prodCos p x u k

/-- IM_k, the exact partial sum (R147). -/
def imExact (p : Params) (x : Window) (u : Nat) : Nat → Int
  | 0 => 0
  | k + 1 => imExact p x u k - prodSin p x u k

/-- Whether one of RE_1 .. RE_k or IM_1 .. IM_k left the 32-bit range (R147). -/
def leftRange (p : Params) (x : Window) (u : Nat) : Nat → Bool
  | 0 => false
  | k + 1 => leftRange p x u k || outside32 (reExact p x u (k + 1)) || outside32 (imExact p x u (k + 1))

/-- re'(u), the scaled accumulator (R148). -/
def reScaled (p : Params) (x : Window) (u : Nat) : Int := tdiv (reAcc p x u 32) (scaleDiv p)

/-- im'(u), the scaled accumulator (R148). -/
def imScaled (p : Params) (x : Window) (u : Nat) : Int := tdiv (imAcc p x u 32) (scaleDiv p)

/-- m of bin(u) = (m, o(u)): (|re'| + |im'|) div 4 (R149). -/
def magnitude (p : Params) (x : Window) (u : Nat) : Nat :=
  ((reScaled p x u).natAbs + (imScaled p x u).natAbs) / 4

end Sys2Proof.Machine
end

