-- ==== Sys2Proof/Machine/Flags.lean ====
section
/-! DEFINITION. The flags and status words: the overflow verdict of a run (spec/41_transform.md R147), the STATUS word
(spec/10_state.md R40), the acquisition state (R23) and the timer-enable output (R35). -/

namespace Sys2Proof.Machine

/-- o(u), the overflow verdict of one bin (R147): a partial sum left the 32-bit range, or a scaled value is -2^31. -/
def binOverflow (p : Params) (x : Window) (u : Nat) : Bool :=
  leftRange p x u 32 || reScaled p x u == -2147483648 || imScaled p x u == -2147483648

/-- The verdict of a whole run: the OR over the 16 bins (R143). Irreducible for elaboration only, so that no tactic unrolls
the 16 sums of a symbolic window; the kernel evaluates it. -/
@[irreducible] def runOverflow (p : Params) (x : Window) : Bool := (List.range 16).any (binOverflow p x)

/-- STATUS: READY, SAMPLING, PENDING, BUSY, DONE, OVF in bits 0 to 5, the rest 0 (R40, R188). -/
def State.statusWord (s : State) : BusData :=
  0#10 ++ (BitVec.ofBool s.ovf ++ (BitVec.ofBool s.done ++ (BitVec.ofBool s.busy ++
    (BitVec.ofBool s.pending ++ (BitVec.ofBool s.sampling ++ BitVec.ofBool s.ready)))))

/-- ACQ is FULL exactly when READY = 1 (R23). -/
def State.acq (s : State) : Acq := if s.ready then .full else .collecting

/-- The output timer_en is SAMPLING at every instant (R35). -/
def State.timerEn (s : State) : Bool := s.sampling

end Sys2Proof.Machine
end

