-- ==== Sys2Proof/Machine/Ops.lean ====
section
/-! DEFINITION. The named operations every meaning is built from: the outputs of a transition, the window, the window-full
step (spec/40_acquisition.md R104), raising an error and clearing it (spec/60_exceptions.md R222, R226), and the values of
the host-visible registers (spec/10_state.md R39 to R46). -/

namespace Sys2Proof.Machine

/-! ## Outputs of a transition -/

/-- A step in which no operation is performed: conv_req is not driven and nothing is returned. -/
def State.idle (s : State) : State := { s with convReq := false, readData := none }

/-- The start of every operation but a read: conv_req is not driven (R36), nothing is returned, and the free value of an
unwritten window slot may from here on be another (U1). -/
def State.begin (s : State) : State :=
  { s with convReq := false, readData := none, epoch := s.epoch + 1 }

/-- `emit conv_req` (R15, R36). -/
def State.emitConvReq (s : State) : State := { s with convReq := true }

/-- A host read that returns v (R15): it changes no state of the block (R56). -/
def State.respond (s : State) (v : BusData) : State := { s with convReq := false, readData := some v }

/-! ## Errors: the block's only exceptions (R220 to R226) -/

/-- The code of an error (R220). -/
def Err.code : Err → BitVec 4
  | .rsvdCmd => 1
  | .startNotReady => 2
  | .startBusy => 3
  | .armNotReady => 4
  | .armBusy => 5

/-- `raise Err`: the first error since the last RESET or CLRERR is kept (R222); nothing else changes (R221, R225). -/
def State.raise (s : State) (e : Err) : State :=
  if s.errcode = 0 then { s with errcode := e.code } else s

/-- The return from an error (R226). -/
def State.clearError (s : State) : State := { s with errcode := 0 }

/-! ## The window -/

/-- WIN[i] <- v (R28). -/
def State.writeWin (s : State) (i : Fin 32) (v : Sample) : State :=
  { s with win := s.win.set i v, winWritten := s.winWritten.set i true }

/-- The value of WIN[i]: what was written since RESET, else any value (R192, U1). -/
def State.readWin (s : State) (i : Fin 32) : Sample :=
  if s.winWritten.get i then s.win.get i else Config.unwrittenWin s.epoch i

/-- The window as the transform reads it (R143). In a reachable state every slot is written (I7); log entry 13. -/
def State.window (s : State) : Window := fun i => (s.readWin i).toInt

/-- window_full() (R104): part of the CONV_DONE that writes slot 31. -/
def State.windowFull (s : State) : State := { s with fill := 0, sampling := false, ready := true }

/-! ## The spectrum -/

/-- The result of a run over the window (R143): all 16 bins, the run's verdict, BUSY cleared and DONE set. -/
def State.publish (s : State) : State :=
  { s with
    bin := Vector.ofFn fun u : Fin 16 => BitVec.ofNat 32 (magnitude s.cfg s.window u.val)
    ovf := runOverflow s.cfg s.window
    busy := false
    done := true }

/-- BINC[u], the clipped view (R33). -/
def State.binc (s : State) (u : Fin 16) : Int := clip (s.bin.get u).toInt

/-! ## Host-visible register values (R39 to R46) -/

/-- FILL as a register (R41). -/
def State.fillWord (s : State) : BusData := s.fill.zeroExtend 16

/-- ERR as a register (R42). -/
def State.errWord (s : State) : BusData := s.errcode.zeroExtend 16

/-- CALOFS (R43). -/
def State.calofsWord (s : State) : BusData := s.cfg.calOffset.zeroExtend 16

/-- BINLO[u] (R45). -/
def State.binLo (s : State) (u : Fin 16) : BusData := (s.bin.get u).extractLsb' 0 16

/-- BINHI[u] (R45). -/
def State.binHi (s : State) (u : Fin 16) : BusData := (s.bin.get u).extractLsb' 16 16

/-- BINC[u] as a register (R46). -/
def State.bincWord (s : State) (u : Fin 16) : BusData := BitVec.ofInt 16 (s.binc u)

end Sys2Proof.Machine
end

