-- ==== Sys2Proof/Machine/Acquisition.lean ====
section
/-! DEFINITION. The acquisition family (spec/40_acquisition.md): TICK and CONV_DONE. -/

namespace Sys2Proof.Machine

/-- TICK (R100): requests one conversion; without effect while sampling is frozen, dropped while a conversion is pending. -/
def execTick (s : State) : Host.Outcome State Fault Refusal :=
  if s.sampling = false then .next s.begin
  else if s.pending = true then .next s.begin
  else .next { s.begin.emitConvReq with pending := true }

/-- CONV_DONE(raw) (R102): stores the sample at slot FILL; ignored while no conversion is pending (R102; log
entry 11). -/
def execConvDone (raw : RawReading) (s : State) : Host.Outcome State Fault Refusal :=
  if s.pending = false then .next s.begin
  else
    let t : State := { s.begin.writeWin s.fill.toFin (sample s.cfg raw) with pending := false }
    if s.fill = 31 then .next t.windowFull
    else .next { t with fill := s.fill + 1 }

end Sys2Proof.Machine
end

