-- ==== Sys2Proof/Machine/HostInterface.lean ====
section
/-! DEFINITION. The host interface family (spec/42_host_interface.md): the commands but START, and the register reads. -/

namespace Sys2Proof.Machine

/-- NOP (R182). -/
def execCmdNop (s : State) : Host.Outcome State Fault Refusal := .next s.begin

/-- ARM (R181). -/
def execCmdArm (s : State) : Host.Outcome State Fault Refusal :=
  if s.busy = true then .next (s.begin.raise .armBusy)
  else if s.ready = false then .next (s.begin.raise .armNotReady)
  else .next { s.begin with ready := false, fill := 0, sampling := true }

/-- CLRERR (R183). -/
def execCmdClrerr (s : State) : Host.Outcome State Fault Refusal := .next s.begin.clearError

/-- A reserved command (R184): it raises RSVD_CMD whatever its data word. -/
def execCmdRsvd (_d : BusData) (s : State) : Host.Outcome State Fault Refusal :=
  .next (s.begin.raise .rsvdCmd)

/-- A write to any other offset is ignored (R186). -/
def execWrOther (_a : Offset) (_d : BusData) (s : State) : Host.Outcome State Fault Refusal := .next s.begin

/-- RD_CMD (R187): CMD keeps no value. -/
def execRdCmd (s : State) : Host.Outcome State Fault Refusal := .next (s.respond 0x0000)

/-- RD_STATUS (R188). -/
def execRdStatus (s : State) : Host.Outcome State Fault Refusal := .next (s.respond s.statusWord)

/-- RD_FILL (R189). -/
def execRdFill (s : State) : Host.Outcome State Fault Refusal := .next (s.respond s.fillWord)

/-- RD_ERR (R190). -/
def execRdErr (s : State) : Host.Outcome State Fault Refusal := .next (s.respond s.errWord)

/-- RD_CALOFS (R191). -/
def execRdCalofs (s : State) : Host.Outcome State Fault Refusal := .next (s.respond s.calofsWord)

/-- RD_WIN(i) (R192). -/
def execRdWin (i : Fin 32) (s : State) : Host.Outcome State Fault Refusal := .next (s.respond (s.readWin i))

/-- RD_BINLO(u) (R193). -/
def execRdBinlo (u : Fin 16) (s : State) : Host.Outcome State Fault Refusal := .next (s.respond (s.binLo u))

/-- RD_BINHI(u) (R194). -/
def execRdBinhi (u : Fin 16) (s : State) : Host.Outcome State Fault Refusal := .next (s.respond (s.binHi u))

/-- RD_BINC(u) (R195). -/
def execRdBinc (u : Fin 16) (s : State) : Host.Outcome State Fault Refusal := .next (s.respond (s.bincWord u))

/-- RD_RSVD (R196). -/
def execRdRsvd (_a : Offset) (s : State) : Host.Outcome State Fault Refusal := .next (s.respond 0x0000)

end Sys2Proof.Machine
end

