-- ==== Sys2Proof/Machine/Restart.lean ====
section
/-! DEFINITION. RESET (spec/70_reset_and_hazards.md R250). -/

namespace Sys2Proof.Machine

/-- RESET (R250): every element of the block at its reset value, WIN with no value, the configuration unchanged. The
inputs still to come are not the block's and stay, and the counter of the free value moves on (log entries 1, 3, 4). -/
def execReset (s : State) : Host.Outcome State Fault Refusal :=
  .next { State.resetWith s.cfg with epoch := s.epoch + 1, agenda := s.agenda }

end Sys2Proof.Machine
end

