-- ==== Sys2Proof/Machine/Transform.lean ====
section
/-! DEFINITION. The transform family (spec/41_transform.md): START and XFORM_DONE. -/

namespace Sys2Proof.Machine

/-- START (R140). -/
def execCmdStart (s : State) : Host.Outcome State Fault Refusal :=
  if s.busy = true then .next (s.begin.raise .startBusy)
  else if s.ready = false then .next (s.begin.raise .startNotReady)
  else .next { s.begin with busy := true, done := false, ovf := false }

/-- XFORM_DONE (R143), enabled only while BUSY = 1. -/
def execXformDone (s : State) : Host.Outcome State Fault Refusal :=
  if s.busy = false then .refused .xformDoneNotEnabled
  else .next { s.publish with convReq := false, readData := none, epoch := s.epoch + 1 }

end Sys2Proof.Machine
end

