-- ==== Sys2Proof/Machine/Dispatch.lean ====
section
/-! DEFINITION. One arm per operation of the opcode table. -/

namespace Sys2Proof.Machine

def exec (i : Instr) (s : State) : Host.Outcome State Fault Refusal :=
  match i with
  | .cmdNop => Sys2Proof.Machine.execCmdNop s
  | .cmdArm => Sys2Proof.Machine.execCmdArm s
  | .cmdStart => Sys2Proof.Machine.execCmdStart s
  | .cmdClrerr => Sys2Proof.Machine.execCmdClrerr s
  | .cmdRsvd d => Sys2Proof.Machine.execCmdRsvd d s
  | .wrOther a d => Sys2Proof.Machine.execWrOther a d s
  | .rdCmd => Sys2Proof.Machine.execRdCmd s
  | .rdStatus => Sys2Proof.Machine.execRdStatus s
  | .rdFill => Sys2Proof.Machine.execRdFill s
  | .rdErr => Sys2Proof.Machine.execRdErr s
  | .rdCalofs => Sys2Proof.Machine.execRdCalofs s
  | .rdWin w => Sys2Proof.Machine.execRdWin w s
  | .rdBinlo u => Sys2Proof.Machine.execRdBinlo u s
  | .rdBinhi u => Sys2Proof.Machine.execRdBinhi u s
  | .rdBinc u => Sys2Proof.Machine.execRdBinc u s
  | .rdRsvd a => Sys2Proof.Machine.execRdRsvd a s
  | .reset => Sys2Proof.Machine.execReset s
  | .convDone raw => Sys2Proof.Machine.execConvDone raw s
  | .tick => Sys2Proof.Machine.execTick s
  | .xformDone => Sys2Proof.Machine.execXformDone s

end Sys2Proof.Machine
end

