-- ==== Sys2Proof/WellFormed.lean ====
section
/-! DEFINITION. Which terms of `Instr` are operations of the block: the three rows of the opcode map that are taken only
after others (spec/30_encoding.md R82, priorities 2 and 3) hold only the operands those others leave over. -/

namespace Sys2Proof

/-- A reserved command word: D[15:4] is not 0 or OP is in [0x4, 0xF] (R74). -/
def isReservedCommand (d : BusData) : Bool :=
  d.extractLsb' 4 12 != 0 || decide (4 ≤ (d.extractLsb' 0 4).toNat)

/-- An offset of the CMD register: A[7:1] is 0 (R76). -/
def isCmdOffset (a : Offset) : Bool := a.extractLsb' 1 7 == 0

/-- A reserved offset: 0x0A to 0x3F or 0xE0 to 0xFF (spec/20_memory.md R55). -/
def isReservedOffset (a : Offset) : Bool :=
  (decide (0x0A ≤ a.toNat) && decide (a.toNat ≤ 0x3F)) || decide (0xE0 ≤ a.toNat)

/-- The operations that exist: every other constructor's operands are bounded by their types. -/
def Instr.wf : Instr → Bool
  | .cmdNop => true
  | .cmdArm => true
  | .cmdStart => true
  | .cmdClrerr => true
  | .cmdRsvd d => isReservedCommand d
  | .wrOther a _ => !isCmdOffset a
  | .rdCmd => true
  | .rdStatus => true
  | .rdFill => true
  | .rdErr => true
  | .rdCalofs => true
  | .rdWin _ => true
  | .rdBinlo _ => true
  | .rdBinhi _ => true
  | .rdBinc _ => true
  | .rdRsvd a => isReservedOffset a
  | .reset => true
  | .convDone _ => true
  | .tick => true
  | .xformDone => true

end Sys2Proof
end

