-- ==== Sys2Proof/Decode.lean ====
section
/-! DEFINITION. Decoding of BUS descriptors and EVT vectors (spec/30_encoding.md R70 to R78), total, refusing by name what
is no transaction, and the encoder written from the same tables (R71, R72, R81). -/

namespace Sys2Proof

/-- Why a word is no operation. -/
inductive Reject where
  /-- A BUS descriptor with Z other than 0: the physical bus has no such bits (R75, U8). -/
  | notATransaction
  /-- A number wider than the word it is given as: 13 bits for an EVT vector, 32 for a BUS descriptor (R71, R72). -/
  | tooWide
deriving DecidableEq, Repr

/-! ## Fields of a BUS descriptor (R71) -/

/-- W, bit 31: 1 for a write. -/
def busW (w : BusWord) : Bool := w.extractLsb' 31 1 == 1

/-- Z, bits 30 to 24. -/
def busZ (w : BusWord) : BitVec 7 := w.extractLsb' 24 7

/-- A, bits 23 to 16: the byte offset. -/
def busA (w : BusWord) : Offset := w.extractLsb' 16 8

/-- D, bits 15 to 0: the write data. -/
def busD (w : BusWord) : BusData := w.extractLsb' 0 16

/-- A BUS descriptor from its fields W, A and D, with Z = 0. -/
def busDescriptor (write : Bool) (a : Offset) (d : BusData) : BusWord :=
  BitVec.ofBool write ++ (0#7 ++ (a ++ d))

/-! ## Fields of an EVT vector (R72) -/

/-- R, bit 12. -/
def evtR (v : EvtWord) : Bool := v.extractLsb' 12 1 == 1

/-- T, bit 11. -/
def evtT (v : EvtWord) : Bool := v.extractLsb' 11 1 == 1

/-- C, bit 10. -/
def evtC (v : EvtWord) : Bool := v.extractLsb' 10 1 == 1

/-- V, bits 9 to 0: the raw reading. -/
def evtV (v : EvtWord) : RawReading := v.extractLsb' 0 10

/-- An EVT vector from its fields. -/
def evtVector (r t c : Bool) (raw : RawReading) : EvtWord :=
  BitVec.ofBool r ++ (BitVec.ofBool t ++ (BitVec.ofBool c ++ raw))

/-! ## Decoding -/

/-- A write to CMD by its command word (R73, R74). -/
def decodeCommand (d : BusData) : Instr :=
  if d.extractLsb' 4 12 = 0 then
    if d.extractLsb' 0 4 = 0x0 then .cmdNop
    else if d.extractLsb' 0 4 = 0x1 then .cmdArm
    else if d.extractLsb' 0 4 = 0x2 then .cmdStart
    else if d.extractLsb' 0 4 = 0x3 then .cmdClrerr
    else .cmdRsvd d
  else .cmdRsvd d

/-- A read by its offset (R76), with the operands of R78. -/
def decodeRead (a : Offset) : Instr :=
  if a.extractLsb' 1 7 = 0x00 then .rdCmd
  else if a.extractLsb' 1 7 = 0x01 then .rdStatus
  else if a.extractLsb' 1 7 = 0x02 then .rdFill
  else if a.extractLsb' 1 7 = 0x03 then .rdErr
  else if a.extractLsb' 1 7 = 0x04 then .rdCalofs
  else if a.extractLsb' 6 2 = 0b01 then .rdWin (a.extractLsb' 1 5).toFin
  else if a.extractLsb' 6 2 = 0b10 then
    if a.extractLsb' 1 1 = 0 then .rdBinlo (a.extractLsb' 2 4).toFin
    else .rdBinhi (a.extractLsb' 2 4).toFin
  else if a.extractLsb' 5 3 = 0b110 then .rdBinc (a.extractLsb' 1 4).toFin
  else .rdRsvd a

/-- BUS decode (R76); a descriptor with Z other than 0 is refused (R75). -/
def decodeBus (w : BusWord) : Except Reject Instr :=
  if busZ w = 0 then
    if busW w then
      if isCmdOffset (busA w) then .ok (decodeCommand (busD w))
      else .ok (.wrOther (busA w) (busD w))
    else .ok (decodeRead (busA w))
  else .error .notATransaction

/-- EVT decode (R77): the operations of one vector in the order they are performed; none when R = T = C = 0 (R75). -/
def decodeEvt (v : EvtWord) : List Instr :=
  if evtR v then [.reset]
  else (if evtC v then [.convDone (evtV v)] else []) ++ (if evtT v then [.tick] else [])

/-- The operations an encoding stands for, in the order they are performed. -/
def decode : Encoding → Except Reject (List Instr)
  | .bus w =>
    match decodeBus w with
    | .ok i => .ok [i]
    | .error r => .error r
  | .evt v => .ok (decodeEvt v)
  | .internal => .ok [.xformDone]

/-! ## Encoding (R71, R72, R73, R81) -/

/-- The encoding of an operation. Bits the spec ignores are written 0, as the table writes them (R71). -/
def encode : Instr → Encoding
  | .cmdNop => .bus (busDescriptor true 0x00 0x0000)
  | .cmdArm => .bus (busDescriptor true 0x00 0x0001)
  | .cmdStart => .bus (busDescriptor true 0x00 0x0002)
  | .cmdClrerr => .bus (busDescriptor true 0x00 0x0003)
  | .cmdRsvd d => .bus (busDescriptor true 0x00 d)
  | .wrOther a d => .bus (busDescriptor true a d)
  | .rdCmd => .bus (busDescriptor false 0x00 0)
  | .rdStatus => .bus (busDescriptor false 0x02 0)
  | .rdFill => .bus (busDescriptor false 0x04 0)
  | .rdErr => .bus (busDescriptor false 0x06 0)
  | .rdCalofs => .bus (busDescriptor false 0x08 0)
  | .rdWin i => .bus (busDescriptor false (BitVec.ofNat 8 (0x40 + 2 * i.val)) 0)
  | .rdBinlo u => .bus (busDescriptor false (BitVec.ofNat 8 (0x80 + 4 * u.val)) 0)
  | .rdBinhi u => .bus (busDescriptor false (BitVec.ofNat 8 (0x82 + 4 * u.val)) 0)
  | .rdBinc u => .bus (busDescriptor false (BitVec.ofNat 8 (0xC0 + 2 * u.val)) 0)
  | .rdRsvd a => .bus (busDescriptor false a 0)
  | .reset => .evt (evtVector true false false 0)
  | .convDone raw => .evt (evtVector false false true raw)
  | .tick => .evt (evtVector false true false 0)
  | .xformDone => .internal

/-! ## Words numbered as spec/opcode_table.json numbers them -/

/-- A table word of up to 16 bits is an EVT vector and one of up to 32 bits a BUS descriptor; XFORM_DONE has none (R70). -/
def tableEncoding (nbits w : Nat) : Except Reject Encoding :=
  if nbits ≤ 16 then
    if w < 8192 then .ok (.evt (BitVec.ofNat 13 w)) else .error .tooWide
  else if nbits ≤ 32 then
    if w < 4294967296 then .ok (.bus (BitVec.ofNat 32 w)) else .error .tooWide
  else .error .tooWide

/-- The operation the decoder reads from a table word: the first one performed where an EVT vector holds two (R77).
Log entry 10. -/
def decodeTableWord (nbits w : Nat) : Option Instr :=
  match tableEncoding nbits w with
  | .error _ => none
  | .ok e =>
    match decode e with
    | .ok (i :: _) => some i
    | .ok [] => none
    | .error _ => none

end Sys2Proof
end

