-- ==== Sys2Proof/Machine/Fetch.lean ====
section
/-! DEFINITION. Which operation of a cycle's inputs is performed next, and what is then left of them: the order of
spec/60_exceptions.md R228. -/

namespace Sys2Proof.Machine

/-- What the inputs of a cycle hold next. -/
inductive Fetched where
  /-- An operation, and the inputs of the cycle that remain after it. -/
  | op (i : Instr) (left : Cycle)
  /-- No operation is left. -/
  | idle
  /-- A host access that is no transaction. -/
  | reject (why : Reject)
deriving DecidableEq, Repr

/-- What is left of an EVT vector after its first operation (R77): nothing after RESET, T alone after CONV_DONE. -/
def evtLeft (v : EvtWord) : EvtWord :=
  if evtR v then 0
  else if evtC v then evtVector false (evtT v) false 0
  else 0

/-- The next operation of a cycle (R228): RESET, which discards the rest, then CONV_DONE, then TICK, then the host access,
then XFORM_DONE. -/
def Cycle.fetch (c : Cycle) : Fetched :=
  match decodeEvt c.evt with
  | i :: _ => if evtR c.evt then .op i Cycle.empty else .op i { c with evt := evtLeft c.evt }
  | [] =>
    match c.bus with
    | some w =>
      match decodeBus w with
      | .ok i => .op i { evt := 0, bus := none, engine := c.engine }
      | .error r => .reject r
    | none => if c.engine then .op .xformDone Cycle.empty else .idle

/-- Whether a cycle still holds an input. -/
def Cycle.pending (c : Cycle) : Bool :=
  evtR c.evt || evtT c.evt || evtC c.evt || c.bus.isSome || c.engine

/-- The inputs to come when `c` is what remains of the present cycle. -/
def Cycle.before (c : Cycle) (rest : List Cycle) : List Cycle := if c.pending then c :: rest else rest

/-- The cycle in which one encoding is the only input. -/
def Cycle.of : Encoding → Cycle
  | .bus w => { evt := 0, bus := some w, engine := false }
  | .evt v => { evt := v, bus := none, engine := false }
  | .internal => { evt := 0, bus := none, engine := true }

/-- Lay one encoding out as the very next input. -/
def State.offer (s : State) (e : Encoding) : State := { s with agenda := Cycle.of e :: s.agenda }

/-- Why the step refuses a host access that the decoder refuses. -/
def rejection : Reject → Refusal
  | .notATransaction => .notATransaction
  | .tooWide => .notATransaction

end Sys2Proof.Machine
end

