-- ==== Sys2Proof/Machine/Step.lean ====
section
/-! DEFINITION. One step: the next operation the environment and the engine have laid out is performed as one atomic
transition (spec/10_state.md R20). -/

namespace Sys2Proof.Machine

/-- One step. With no input to come, or with a cycle whose inputs are all 0, no operation is performed (R75). Log
entry 8. -/
def step (s : State) : Host.Outcome State Fault Refusal :=
  match s.agenda with
  | [] => .next s.idle
  | c :: rest =>
    match c.fetch with
    | .op i left => exec i { s with agenda := left.before rest }
    | .idle => .next { s.idle with agenda := rest }
    | .reject r => .refused (rejection r)

/-- s with one word of the opcode table as its very next input, alone in its cycle. -/
def State.withFetchWord (s : State) (nbits w : Nat) : State :=
  match tableEncoding nbits w with
  | .ok e => s.offer e
  | .error _ => s

end Sys2Proof.Machine
end

