-- ==== Sys2Proof/Machine/RegisterMap.lean ====
section
/-! DEFINITION. The register space as the platform and the host see it: the map by offset (spec/20_memory.md R51, R55), its
bytes for a little-endian host (R54), the address window at BASE (R50), and the configurations a model admits
(spec/00_scope.md R10, R11). -/

namespace Sys2Proof.Machine

/-- `MemRead(a, 2)` by the table of R51: bit 0 of the offset is ignored (R52), reserved offsets read 0 (R55). -/
def State.regRead (s : State) (a : Offset) : BusData :=
  let o := 2 * (a.toNat / 2)
  if o = 0x00 then 0
  else if o = 0x02 then s.statusWord
  else if o = 0x04 then s.fillWord
  else if o = 0x06 then s.errWord
  else if o = 0x08 then s.calofsWord
  else if o < 0x40 then 0
  else if o < 0x80 then s.readWin (Fin.ofNat 32 ((o - 0x40) / 2))
  else if o < 0xC0 then
    if (o - 0x80) % 4 = 0 then s.binLo (Fin.ofNat 16 ((o - 0x80) / 4))
    else s.binHi (Fin.ofNat 16 ((o - 0x82) / 4))
  else if o < 0xE0 then s.bincWord (Fin.ofNat 16 ((o - 0xC0) / 2))
  else 0

/-- The byte a little-endian host sees at an offset: the low byte of a register at its even address (R54). The
little-endian host is PRESUMED by the spec (K1), log entry 12. -/
def State.regByte (s : State) (a : Offset) : BitVec 8 :=
  if a.toNat % 2 = 0 then (s.regRead a).extractLsb' 0 8 else (s.regRead a).extractLsb' 8 8

/-- The offset of a host address inside the block: addresses outside [BASE, BASE + 0xFF] do not reach it (R50). -/
def hostOffset (p : Params) (a : Nat) : Option Offset :=
  if p.base ≤ a ∧ a ≤ p.base + 0xFF then some (BitVec.ofNat 8 (a - p.base)) else none

/-- The descriptor of a 16-bit host access at a host address, where the address reaches the block (R50, R71). The data of
a read is written 0. -/
def hostAccess (p : Params) (write : Bool) (a : Nat) (d : BusData) : Option BusWord :=
  (hostOffset p a).map fun o => busDescriptor write o (if write then d else 0)

/-- Every entry lies in the range of a 16-bit two's-complement integer. -/
def fits16 (v : Int) : Bool := decide (-32768 ≤ v) && decide (v ≤ 32767)

/-- A configuration from integers, refused outside the ranges of R10 (R11): CAL_OFFSET, the 32 entries of SINE_TABLE,
SCALE_DIV and BASE. -/
def configure (cal : Int) (table : Vector Int 32) (div : Int) (base : Nat) : Option Params :=
  if (0 ≤ cal ∧ cal ≤ 1023) ∧ table.all fits16 = true ∧ (1 ≤ div ∧ div ≤ 2147483647) then
    some
      { calOffset := BitVec.ofInt 10 cal
        sineTable := table.map (BitVec.ofInt 16)
        scaleDivPred := Fin.ofNat 2147483647 (div.toNat - 1)
        base := base }
  else none

end Sys2Proof.Machine
end

