-- ==== Sys2Proof/Machine/Script.lean ====
section
/-! DEFINITION. The script notation of spec/30_encoding.md R79 to R81: one line is one encoding, a script is what the
environment lays out for the block, and a poll is a loop of the host. -/

namespace Sys2Proof.Machine

/-- A script line (R79). -/
inductive Line where
  | reset
  | tick
  | conv (raw : RawReading)
  | xdone
  | wr (a : Offset) (d : BusData)
  | rd (a : Offset)
  | evt (v : EvtWord)
deriving DecidableEq, Repr

/-- A pseudo-operation with a fixed expansion (R80); the two that have none are `Poll` below. -/
inductive Pseudo where
  | nop
  | arm
  | start
  | clrerr
  | sample (raw : RawReading)
  | rdbin (u : Fin 16)
deriving DecidableEq, Repr

/-- The encoding of a line (R81). -/
def Line.encoding : Line → Encoding
  | .reset => .evt 0x1000
  | .tick => .evt 0x0800
  | .conv raw => .evt (0x0400 ||| raw.zeroExtend 13)
  | .xdone => .internal
  | .wr a d => .bus (busDescriptor true a d)
  | .rd a => .bus (busDescriptor false a 0)
  | .evt v => .evt v

/-- The expansion of a pseudo-operation (R80). -/
def Pseudo.lines : Pseudo → List Line
  | .nop => [.wr 0x00 0x0000]
  | .arm => [.wr 0x00 0x0001]
  | .start => [.wr 0x00 0x0002]
  | .clrerr => [.wr 0x00 0x0003]
  | .sample raw => [.tick, .conv raw]
  | .rdbin u => [.rd (BitVec.ofNat 8 (0x80 + 4 * u.val)), .rd (BitVec.ofNat 8 (0x82 + 4 * u.val))]

/-- Lay a script out after the inputs already to come, one line a cycle (R79). -/
def State.enqueue (s : State) (ls : List Line) : State :=
  { s with agenda := s.agenda ++ ls.map fun l => Cycle.of l.encoding }

/-! ## Polls (R80) -/

/-- A pseudo-operation whose expansion the values read decide. -/
inductive Poll where
  | ready
  | done
deriving DecidableEq, Repr

/-- The line a poll repeats: a read of STATUS. -/
def pollLine : Line := .rd 0x02

/-- poll_ready stops at this value: bit 0 is 1. -/
def pollReadyStops (v : BusData) : Bool := v.getLsbD 0

/-- poll_done stops at this value: bit 4 is 1 and bit 3 is 0. -/
def pollDoneStops (v : BusData) : Bool := v.getLsbD 4 && !v.getLsbD 3

/-- The value a poll stops at. -/
def Poll.stops : Poll → BusData → Bool
  | .ready => pollReadyStops
  | .done => pollDoneStops

/-- One outcome after another: the first fault or refusal is the outcome of both. -/
def andThen {α β : Type} (o : Host.Outcome α Fault Refusal) (f : α → Host.Outcome β Fault Refusal) :
    Host.Outcome β Fault Refusal :=
  match o with
  | .next a => f a
  | .fault r => .fault r
  | .refused r => .refused r

/-- k steps on the inputs to come. -/
def stepMany : Nat → State → Host.Outcome State Fault Refusal
  | 0, s => .next s
  | k + 1, s => andThen (step s) (stepMany k)

/-- How far a poll has come: the block's state, and the value it stopped at if it has stopped. -/
structure Polled where
  state : State
  value : Option BusData
deriving DecidableEq, Repr

/-- One read of a poll: `pollLine` as the very next input. The poll stops at the value returned, or goes on. -/
def Poll.read (p : Poll) (s : State) : Host.Outcome Polled Fault Refusal :=
  andThen (step (s.offer pollLine.encoding)) fun t => .next { state := t, value := t.readData.filter p.stops }

/-- A poll: `pollLine` repeated until the value returned passes. Between two reads the operations of the other agents are
performed, as many steps of the inputs to come as `waits` says; any list of numbers, of any length, is an interleaving
that R80 admits. Where `waits` ends before the value passes, the poll has not stopped yet. Log entry 16. -/
def Poll.run (p : Poll) : List Nat → State → Host.Outcome Polled Fault Refusal
  | [], s => p.read s
  | k :: waits, s =>
    andThen (p.read s) fun r =>
      match r.value with
      | some _ => .next r
      | none => andThen (stepMany k r.state) (p.run waits)

end Sys2Proof.Machine
end

