-- ==== Sys2Proof/Safety.lean ====
section
/-! DEFINITION. The terms claims are stated in: the invariants of spec/10_state.md R38, runs of operations, the conversions a
run accepts, the executions fairness admits (spec/41_transform.md R141), and the opcode map as data (spec/30_encoding.md R82). -/

namespace Sys2Proof.Safety

open Sys2Proof.Machine

/-! ## Invariants (R38) -/

/-- I1: SAMPLING = 1 - READY. -/
abbrev SamplingOpposesReady (s : State) : Prop := s.sampling = !s.ready

/-- I2: READY = 1 implies FILL = 0 and PENDING = 0. -/
abbrev ReadyIsQuiet (s : State) : Prop := s.ready = true → s.fill = 0 ∧ s.pending = false

/-- I3: PENDING = 1 implies SAMPLING = 1. -/
abbrev PendingIsSampling (s : State) : Prop := s.pending = true → s.sampling = true

/-- I4: BUSY = 1 implies READY = 1. -/
abbrev BusyIsReady (s : State) : Prop := s.busy = true → s.ready = true

/-- I5: BUSY = 1 implies DONE = 0. -/
abbrev BusyIsNotDone (s : State) : Prop := s.busy = true → s.done = false

/-- I6: 0 ≤ BIN[u] ≤ 2^30 for every u. -/
abbrev BinsBounded (s : State) : Prop :=
  ∀ u : Fin 16, 0 ≤ (s.bin.get u).toInt ∧ (s.bin.get u).toInt ≤ 1073741824

/-- I7: READY = 1 implies every WIN[i] has been written since the last RESET. -/
abbrev ReadyIsWritten (s : State) : Prop := s.ready = true → ∀ i : Fin 32, s.winWritten.get i = true

/-- What I7 rests on (R28): the slots below FILL have been written since the last RESET. DEDUCED, log entry 9. -/
abbrev FilledIsWritten (s : State) : Prop := ∀ i : Fin 32, i.val < s.fill.toNat → s.winWritten.get i = true

/-- I9: ERRCODE is in 0 .. 5. -/
abbrev ErrorCodeLegal (s : State) : Prop := s.errcode.toNat ≤ 5

/-- The invariants I1 to I7 and I9 of R38, with the fact that I7 rests on. I8 is a property of transitions. -/
abbrev Inv (s : State) : Prop :=
  SamplingOpposesReady s ∧ ReadyIsQuiet s ∧ PendingIsSampling s ∧ BusyIsReady s ∧ BusyIsNotDone s ∧
  BinsBounded s ∧ ReadyIsWritten s ∧ FilledIsWritten s ∧ ErrorCodeLegal s

/-- Every written slot of the window holds the sample of some raw reading (R28, R101). -/
def WindowHoldsSamples (s : State) : Prop :=
  ∀ i : Fin 32, s.winWritten.get i = true → ∃ raw : RawReading, s.win.get i = sample s.cfg raw

/-- The window's canonical form: a slot that holds no value stores 0, so that equal windows are equal data. -/
abbrev WindowCanonical (s : State) : Prop := ∀ i : Fin 32, s.winWritten.get i = false → s.win.get i = 0

/-! ## Runs of operations -/

/-- The state an operation leads to, where it leads to one. -/
def next? (o : Host.Outcome State Fault Refusal) : Option State :=
  match o with
  | .next t => some t
  | .fault _ => none
  | .refused _ => none

/-- The operations performed one after the other, stopping where one is not performed. -/
def runOps : List Instr → State → Option State
  | [], s => some s
  | i :: is, s =>
    match next? (exec i s) with
    | some t => runOps is t
    | none => none

/-- The raw readings of the CONV_DONEs a run accepts (PENDING = 1), in order (R107). -/
def acceptedRaws : List Instr → State → List RawReading
  | [], _ => []
  | i :: is, s =>
    (match i with
      | .convDone raw => if s.pending then [raw] else []
      | _ => []) ++
    (match next? (exec i s) with
      | some t => acceptedRaws is t
      | none => [])

/-- An operation that reads a register (spec/42_host_interface.md R187 to R196). -/
def isRead : Instr → Bool
  | .rdCmd | .rdStatus | .rdFill | .rdErr | .rdCalofs | .rdWin _ | .rdBinlo _ | .rdBinhi _ | .rdBinc _ | .rdRsvd _ => true
  | _ => false

/-- An endless execution of the block: each operation follows the last, and BUSY does not stay 1 for ever (R141).
Log entry 14. -/
structure Execution (ops : Nat → Instr) (run : Nat → State) : Prop where
  follows : ∀ n, exec (ops n) (run n) = .next (run (n + 1))
  fair : ∀ n, ∃ m, n ≤ m ∧ (run m).busy = false

/-- The ADC contract (R103): a CONV_DONE comes only while a conversion is pending. -/
def AdcContract (ops : Nat → Instr) (run : Nat → State) : Prop :=
  ∀ n raw, ops n = .convDone raw → (run n).pending = true

/-! ## Exact sums -/

/-- The exact sum of x[k] times the cosine entries over k below n (R147, R150). -/
def cosSum (p : Params) (x : Window) (u n : Nat) : Int :=
  ∑ k ∈ Finset.range n, x (Fin.ofNat 32 k) * sine p ((u * k % 32 + 8) % 32)

/-- The exact sum of x[k] times the sine entries over k below n (R147, R150). -/
def sinSum (p : Params) (x : Window) (u n : Nat) : Int :=
  ∑ k ∈ Finset.range n, x (Fin.ofNat 32 k) * sine p (u * k % 32)

/-! ## The order of a cycle's operations (R228) -/

/-- The operations of a cycle in the order R228 gives, where its host access is a transaction. -/
def cycleOrder (c : Cycle) : List Instr :=
  if evtR c.evt then [.reset]
  else
    (if evtC c.evt then [.convDone (evtV c.evt)] else []) ++ (if evtT c.evt then [.tick] else []) ++
    (match c.bus with
      | some w => (match decodeBus w with | .ok i => [i] | .error _ => [])
      | none => []) ++
    (if c.engine then [.xformDone] else [])

/-- The host access of a cycle, if there is one, is a transaction (R75). -/
def busIsTransaction (c : Cycle) : Prop := ∀ w, c.bus = some w → busZ w = 0

/-! ## The opcode map (R82) -/

/-- A row of the opcode map for BUS operations. -/
structure BusRow where
  pattern  : BusWord
  mask     : BusWord
  priority : Nat
deriving DecidableEq, Repr

/-- A row of the opcode map for EVT operations. -/
structure EvtRow where
  pattern : EvtWord
  mask    : EvtWord
deriving DecidableEq, Repr

/-- The BUS row of an operation (R82). -/
def busRow : Instr → Option BusRow
  | .cmdNop => some ⟨0x80000000, 0xFFFEFFFF, 1⟩
  | .cmdArm => some ⟨0x80000001, 0xFFFEFFFF, 1⟩
  | .cmdStart => some ⟨0x80000002, 0xFFFEFFFF, 1⟩
  | .cmdClrerr => some ⟨0x80000003, 0xFFFEFFFF, 1⟩
  | .cmdRsvd _ => some ⟨0x80000000, 0xFFFE0000, 2⟩
  | .wrOther _ _ => some ⟨0x80000000, 0xFF000000, 3⟩
  | .rdCmd => some ⟨0x00000000, 0xFFFE0000, 1⟩
  | .rdStatus => some ⟨0x00020000, 0xFFFE0000, 1⟩
  | .rdFill => some ⟨0x00040000, 0xFFFE0000, 1⟩
  | .rdErr => some ⟨0x00060000, 0xFFFE0000, 1⟩
  | .rdCalofs => some ⟨0x00080000, 0xFFFE0000, 1⟩
  | .rdWin _ => some ⟨0x00400000, 0xFFC00000, 1⟩
  | .rdBinlo _ => some ⟨0x00800000, 0xFFC20000, 1⟩
  | .rdBinhi _ => some ⟨0x00820000, 0xFFC20000, 1⟩
  | .rdBinc _ => some ⟨0x00C00000, 0xFFE00000, 1⟩
  | .rdRsvd _ => some ⟨0x00000000, 0xFF000000, 3⟩
  | .reset => none
  | .convDone _ => none
  | .tick => none
  | .xformDone => none

/-- An operation of the host: a BUS access (R3, R70). -/
def isHostAccess (i : Instr) : Bool := (busRow i).isSome

/-- The EVT row of an operation (R82). -/
def evtRow : Instr → Option EvtRow
  | .reset => some ⟨0x1000, 0x1000⟩
  | .convDone _ => some ⟨0x0400, 0x1400⟩
  | .tick => some ⟨0x0800, 0x1800⟩
  | _ => none

/-- A descriptor matches a row. -/
def BusRow.matches (r : BusRow) (w : BusWord) : Prop := w &&& r.mask = r.pattern

/-- A vector matches a row. -/
def EvtRow.matches (r : EvtRow) (v : EvtWord) : Prop := v &&& r.mask = r.pattern

/-- The bits of a descriptor that are operands or opcode of the operation it stands for: D of a read is ignored (R71), and
A[0] of a register access (R52), but WR_OTHER and RD_RSVD keep the whole offset as their operand (DESIGN CHOICE, log
entry 10). -/
def busCareMask : Instr → BusWord
  | .cmdNop | .cmdArm | .cmdStart | .cmdClrerr | .cmdRsvd _ => 0xFFFEFFFF
  | .wrOther _ _ => 0xFFFFFFFF
  | .rdRsvd _ => 0xFFFF0000
  | _ => 0xFFFE0000

end Sys2Proof.Safety
end

