-- ==== Sys2Proof/Certificates/Slice0/Obligations.lean ====
section
/-! DEFINITION. The statements for the provers. `epoch` is the model's own counter for the free value of an unwritten window
slot (log entry 4): statements leave it open, as some n, and hold whatever it is. `agenda` holds the inputs still to come
(log entry 1). -/

open Sys2Proof Sys2Proof.Machine Sys2Proof.Safety

/-! ## Encoding -/

/-- Words written out from spec/30_encoding.md R71 to R73 and R76 to R78 decode to the operations they stand for. -/
def Obligations.WordsOfTheSpecDecode : Prop :=
  decodeBus 0x80000000 = .ok .cmdNop ∧ decodeBus 0x80000001 = .ok .cmdArm ∧
  decodeBus 0x80010002 = .ok .cmdStart ∧ decodeBus 0x80000003 = .ok .cmdClrerr ∧
  decodeBus 0x80000011 = .ok (.cmdRsvd 0x0011) ∧ decodeBus 0x80401234 = .ok (.wrOther 0x40 0x1234) ∧
  decodeBus 0x00030000 = .ok .rdStatus ∧ decodeBus 0x004A0000 = .ok (.rdWin 5) ∧
  decodeBus 0x00BC0000 = .ok (.rdBinlo 15) ∧ decodeBus 0x008E0000 = .ok (.rdBinhi 3) ∧
  decodeBus 0x00DE0000 = .ok (.rdBinc 15) ∧ decodeBus 0x003E0000 = .ok (.rdRsvd 0x3E) ∧
  decodeBus 0x01000000 = .error .notATransaction ∧
  decodeEvt 0x0E47 = [.convDone 583, .tick] ∧ decodeEvt 0x1FFF = [.reset] ∧ decodeEvt 0x0000 = []

/-- Decoding the encoding of any well-formed operation, with every operand at every value, gives that operation alone. -/
def Obligations.DecodeInvertsEncode : Prop :=
  ∀ i : Instr, i.wf = true → decode (encode i) = .ok [i]

/-- R75: a descriptor with Z other than 0 is refused; every other one decodes to one operation, and it is well formed; an
EVT vector decodes to at most two operations, to none when R = T = C = 0. -/
def Obligations.DecodeIsTotalOnTransactions : Prop :=
  (∀ w : BusWord, w.extractLsb' 24 7 ≠ 0 → decodeBus w = .error .notATransaction) ∧
  (∀ w : BusWord, w.extractLsb' 24 7 = 0 → ∃ i, decodeBus w = .ok i ∧ i.wf = true) ∧
  (∀ v : EvtWord, (decodeEvt v).length ≤ 2) ∧
  (∀ v : EvtWord, v.getLsbD 12 = false → v.getLsbD 11 = false → v.getLsbD 10 = false → decodeEvt v = [])

/-- R82: the row of the operation a descriptor decodes to matches it, no matching row comes before it in priority, and no
other row of its priority matches; an EVT vector holds an operation exactly when its row matches (RESET, when it matches,
alone); XFORM_DONE has no encoding. -/
def Obligations.DecodeFollowsTheOpcodeMap : Prop :=
  (∀ (w : BusWord) (i : Instr), decodeBus w = .ok i →
    ∃ r, busRow i = some r ∧ r.matches w ∧
      ∀ (j : Instr) (q : BusRow), busRow j = some q → q.matches w →
        r.priority ≤ q.priority ∧ (q.priority = r.priority → q = r)) ∧
  (∀ (v : EvtWord) (i : Instr), i ∈ decodeEvt v → ∃ r, evtRow i = some r ∧ r.matches v) ∧
  (∀ v : EvtWord, v &&& 0x1000 = 0x1000 → decodeEvt v = [.reset]) ∧
  (∀ v : EvtWord, v &&& 0x1400 = 0x0400 → .convDone (v.extractLsb' 0 10) ∈ decodeEvt v) ∧
  (∀ v : EvtWord, v &&& 0x1800 = 0x0800 → .tick ∈ decodeEvt v) ∧
  encode .xformDone = .internal ∧ busRow .xformDone = none ∧ evtRow .xformDone = none

/-- R77: RESET alone if R = 1; otherwise CONV_DONE for C = 1 and TICK for T = 1, and when both are 1 the first step of the
vector is the CONV_DONE and a second step of its own is the TICK. -/
def Obligations.EventVectorsDecodeInOrder : Prop :=
  ∀ v : EvtWord,
    (v.getLsbD 12 = true → decodeEvt v = [.reset]) ∧
    (v.getLsbD 12 = false → v.getLsbD 10 = true → v.getLsbD 11 = false → decodeEvt v = [.convDone (v.extractLsb' 0 10)]) ∧
    (v.getLsbD 12 = false → v.getLsbD 10 = false → v.getLsbD 11 = true → decodeEvt v = [.tick]) ∧
    (v.getLsbD 12 = false → v.getLsbD 10 = true → v.getLsbD 11 = true →
      decodeEvt v = [.convDone (v.extractLsb' 0 10), .tick] ∧
      ∀ (s : State) (rest : List Cycle), s.agenda = Cycle.of (.evt v) :: rest →
        step s = exec (.convDone (v.extractLsb' 0 10)) { s with agenda := Cycle.of (.evt 0x0800) :: rest } ∧
        ∀ t : State, t.agenda = Cycle.of (.evt 0x0800) :: rest → step t = exec .tick { t with agenda := rest })

/-- R52: the accesses at an odd offset and at the even offset below it both decode, and do the same in every state. -/
def Obligations.OddOffsetActsAsEven : Prop :=
  ∀ w : BusWord, w.extractLsb' 24 7 = 0 →
    ∃ i j : Instr, decodeBus (w ||| 0x00010000) = .ok i ∧ decodeBus (w &&& 0xFFFEFFFF) = .ok j ∧
      ∀ s : State, exec i s = exec j s

/-- R78: the window index is A[5:1], so that the offset is 0x40 + 2i; the bin index is A[5:2] at 0x80 + 4u and 0x82 + 4u and
A[4:1] at 0xC0 + 2u; the command code is D[3:0]; the raw reading is V, unsigned. -/
def Obligations.OperandsAreAssembled : Prop :=
  (∀ (w : BusWord) (i : Fin 32), decodeBus w = .ok (.rdWin i) →
    i.val = (w.extractLsb' 17 5).toNat ∧ 2 * ((w.extractLsb' 16 8).toNat / 2) = 0x40 + 2 * i.val) ∧
  (∀ (w : BusWord) (u : Fin 16), decodeBus w = .ok (.rdBinlo u) →
    u.val = (w.extractLsb' 18 4).toNat ∧ 2 * ((w.extractLsb' 16 8).toNat / 2) = 0x80 + 4 * u.val) ∧
  (∀ (w : BusWord) (u : Fin 16), decodeBus w = .ok (.rdBinhi u) →
    u.val = (w.extractLsb' 18 4).toNat ∧ 2 * ((w.extractLsb' 16 8).toNat / 2) = 0x82 + 4 * u.val) ∧
  (∀ (w : BusWord) (u : Fin 16), decodeBus w = .ok (.rdBinc u) →
    u.val = (w.extractLsb' 17 4).toNat ∧ 2 * ((w.extractLsb' 16 8).toNat / 2) = 0xC0 + 2 * u.val) ∧
  (∀ w : BusWord, decodeBus w = .ok .cmdNop → w.toNat % 16 = 0) ∧
  (∀ w : BusWord, decodeBus w = .ok .cmdArm → w.toNat % 16 = 1) ∧
  (∀ w : BusWord, decodeBus w = .ok .cmdStart → w.toNat % 16 = 2) ∧
  (∀ w : BusWord, decodeBus w = .ok .cmdClrerr → w.toNat % 16 = 3) ∧
  (∀ (v : EvtWord) (raw : RawReading), .convDone raw ∈ decodeEvt v → raw.toNat = v.toNat % 1024)

/-- Encoding what a descriptor decodes to gives back the descriptor with the bits of `busCareMask` kept and the others 0: D of
every read is dropped, and A[0] of every access but WR_OTHER and RD_RSVD. Those two keep the whole offset, A[0] included,
although their effect does not depend on it (R52): the model's choice, log entry 10. -/
def Obligations.EncodeGivesBackEveryBitThatMatters : Prop :=
  ∀ (w : BusWord) (i : Instr), decodeBus w = .ok i → encode i = .bus (w &&& busCareMask i)

/-- The lines of a script and the fixed pseudo-operations stand for the operations R79 to R81 name: `wr a, d` is the command
of d at offsets 0x00 and 0x01 and the write of d at a elsewhere, `rd a` the read of a, which returns the register there,
and `evt v` the operations of v in their order. -/
def Obligations.ScriptLinesStandForOperations : Prop :=
  decode (Line.encoding .reset) = .ok [.reset] ∧ decode (Line.encoding .tick) = .ok [.tick] ∧
  decode (Line.encoding .xdone) = .ok [.xformDone] ∧
  (∀ raw, decode (Line.encoding (.conv raw)) = .ok [.convDone raw]) ∧
  (∀ v, decode (Line.encoding (.evt v)) = .ok (decodeEvt v)) ∧
  (∀ a d, decode (Line.encoding (.wr a d)) = .ok [if a.toNat < 2 then decodeCommand d else .wrOther a d]) ∧
  (∀ a, decode (Line.encoding (.rd a)) = .ok [decodeRead a] ∧ isRead (decodeRead a) = true ∧
    ∀ s : State, exec (decodeRead a) s = .next { s with convReq := false, readData := some (s.regRead a) }) ∧
  Pseudo.nop.lines.map (fun l => decode l.encoding) = [.ok [.cmdNop]] ∧
  Pseudo.arm.lines.map (fun l => decode l.encoding) = [.ok [.cmdArm]] ∧
  Pseudo.start.lines.map (fun l => decode l.encoding) = [.ok [.cmdStart]] ∧
  Pseudo.clrerr.lines.map (fun l => decode l.encoding) = [.ok [.cmdClrerr]] ∧
  (∀ raw, (Pseudo.sample raw).lines.map (fun l => decode l.encoding) = [.ok [.tick], .ok [.convDone raw]]) ∧
  (∀ u, (Pseudo.rdbin u).lines.map (fun l => decode l.encoding) = [.ok [.rdBinlo u], .ok [.rdBinhi u]]) ∧
  decode pollLine.encoding = .ok [.rdStatus]

/-! ## The step -/

/-- A step runs the operation of the next input on the state with that input taken off the agenda: a host access, a vector of
one operation, the engine's step; the first of a vector's two operations leaves the second as the next input. With
nothing to come, or with an empty vector, no operation is performed; a descriptor the decoder refuses is refused. -/
def Obligations.StepRunsTheDecodedOperation : Prop :=
  ∀ (s : State) (rest : List Cycle),
    (∀ (w : BusWord) (i : Instr), s.agenda = Cycle.of (.bus w) :: rest → decodeBus w = .ok i →
      step s = exec i { s with agenda := rest }) ∧
    (∀ (w : BusWord) (r : Reject), s.agenda = Cycle.of (.bus w) :: rest → decodeBus w = .error r →
      step s = .refused .notATransaction) ∧
    (∀ (v : EvtWord) (i : Instr), s.agenda = Cycle.of (.evt v) :: rest → decodeEvt v = [i] →
      step s = exec i { s with agenda := rest }) ∧
    (∀ (v : EvtWord) (i j : Instr), s.agenda = Cycle.of (.evt v) :: rest → decodeEvt v = [i, j] →
      step s = exec i { s with agenda := Cycle.of (encode j) :: rest }) ∧
    (∀ v : EvtWord, s.agenda = Cycle.of (.evt v) :: rest → decodeEvt v = [] →
      step s = .next { s with agenda := rest, convReq := false, readData := none }) ∧
    (s.agenda = Cycle.of .internal :: rest → step s = exec .xformDone { s with agenda := rest }) ∧
    (s.agenda = [] → step s = .next { s with convReq := false, readData := none })

/-- R228: a cycle's inputs are performed in the order RESET (which discards the rest), CONV_DONE, TICK, host access,
XFORM_DONE, each as its own transition; so a TICK in the cycle of an accepted CONV_DONE requests the next conversion at once
unless that CONV_DONE filled the window, and a STATUS read in the cycle of the window-full step returns READY = 1. -/
def Obligations.SimultaneousEventsAreOrdered : Prop :=
  (∀ (c : Cycle) (i : Instr) (left : Cycle), busIsTransaction c → c.fetch = .op i left →
    cycleOrder c = i :: cycleOrder left ∧ busIsTransaction left ∧ (left.pending = false → cycleOrder left = [])) ∧
  (∀ c : Cycle, busIsTransaction c → c.fetch = .idle → cycleOrder c = []) ∧
  (∀ (c : Cycle) (r : Reject), busIsTransaction c → c.fetch ≠ .reject r) ∧
  (∀ (s : State) (c : Cycle) (rest : List Cycle) (i : Instr) (left : Cycle), s.agenda = c :: rest → c.fetch = .op i left →
    step s = exec i { s with agenda := if left.pending then left :: rest else rest }) ∧
  (∀ (s : State) (raw : RawReading), Inv s → s.pending = true →
    ∃ t, runOps [.convDone raw, .tick] s = some t ∧
      (s.fill ≠ 31 → t.pending = true ∧ t.convReq = true) ∧
      (s.fill = 31 → t.pending = false ∧ t.convReq = false ∧ t.sampling = false)) ∧
  (∀ (s : State) (raw : RawReading), s.pending = true → s.fill = 31 →
    ∃ t v, runOps [.convDone raw, .rdStatus] s = some t ∧ t.readData = some v ∧ v.getLsbD 0 = true)

/-! ## Reset -/

/-- R250: a vector with R = 1 is RESET alone; RESET puts every element at its reset value, leaves WIN without a value and the configuration as it is; the
register reads and the outputs after it are those the rule lists. -/
def Obligations.ResetLeavesTheResetValues : Prop :=
  (∀ v : EvtWord, v &&& 0x1000 = 0x1000 → decodeEvt v = [.reset]) ∧
  ∀ s : State, ∃ t, exec .reset s = .next t ∧
    t.ready = false ∧ t.sampling = true ∧ t.fill = 0 ∧ t.pending = false ∧
    (∀ i, t.winWritten.get i = false) ∧ t.busy = false ∧ t.done = false ∧ t.ovf = false ∧
    (∀ u, t.bin.get u = 0) ∧ t.errcode = 0 ∧ t.cfg = s.cfg ∧ t.agenda = s.agenda ∧ t.readData = none ∧
    t.regRead 0x00 = 0x0000 ∧ t.regRead 0x02 = 0x0002 ∧ t.regRead 0x04 = 0x0000 ∧ t.regRead 0x06 = 0x0000 ∧
    (t.regRead 0x08).toNat = s.cfg.calOffset.toNat ∧
    (∀ a : Offset, 0x80 ≤ a.toNat → a.toNat ≤ 0xDF → t.regRead a = 0x0000) ∧
    t.timerEn = true ∧ t.convReq = false

/-- R251: after RESET the block is COLLECTING with sampling enabled, and whatever the host has accessed since, the first TICK
requests the first conversion. -/
def Obligations.FirstTickAfterResetRequestsAConversion : Prop :=
  ∀ s : State, ∃ t, exec .reset s = .next t ∧ t.acq = .collecting ∧ t.sampling = true ∧
    ∀ (ops : List Instr) (u : State), (∀ i ∈ ops, isHostAccess i = true) → runOps ops t = some u →
      ∃ v, exec .tick u = .next v ∧ v.pending = true ∧ v.convReq = true

/-- The state after reset meets the invariants, no slot of its window holds a value, and 0 is stored behind each (the model's
choice, log entry 3); no input is laid out (log entry 1). -/
def Obligations.ResetMeetsTheInvariants : Prop :=
  Inv State.reset ∧ WindowHoldsSamples State.reset ∧ WindowCanonical State.reset ∧
  (∀ i : Fin 32, State.reset.winWritten.get i = false ∧ State.reset.win.get i = 0) ∧
  State.reset.statusWord = 0x0002 ∧ State.reset.agenda = []

/-! ## Acquisition -/

/-- R100, R106: a TICK with SAMPLING = 1 and PENDING = 0 sets PENDING and drives conv_req; every other TICK changes
nothing: no error, no flag, no count. -/
def Obligations.TickRequestsOneConversion : Prop :=
  (∀ v : EvtWord, v &&& 0x1800 = 0x0800 → .tick ∈ decodeEvt v) ∧
  ∀ s : State,
    (s.sampling = true ∧ s.pending = false → ∃ n,
      exec .tick s = .next { s with pending := true, convReq := true, readData := none, epoch := n }) ∧
    (s.sampling = false ∨ s.pending = true → ∃ n,
      exec .tick s = .next { s with convReq := false, readData := none, epoch := n })

/-- R102, R104: a CONV_DONE with PENDING = 1 stores the sample at slot FILL, clears PENDING and advances FILL, or, at slot 31,
resets FILL, stops sampling and sets READY in the same transition; with PENDING = 0 it changes nothing. -/
def Obligations.ConversionStoresTheSample : Prop :=
  (∀ v : EvtWord, v &&& 0x1400 = 0x0400 → .convDone (v.extractLsb' 0 10) ∈ decodeEvt v) ∧
  ∀ (s : State) (raw : RawReading),
    (s.pending = false → ∃ n,
      exec (.convDone raw) s = .next { s with convReq := false, readData := none, epoch := n }) ∧
    (s.pending = true → s.fill ≠ 31 → ∃ n,
      exec (.convDone raw) s = .next { s with
        win := s.win.set s.fill.toNat (sample s.cfg raw) s.fill.isLt
        winWritten := s.winWritten.set s.fill.toNat true s.fill.isLt
        pending := false, fill := s.fill + 1
        convReq := false, readData := none, epoch := n }) ∧
    (s.pending = true → s.fill = 31 → ∃ n,
      exec (.convDone raw) s = .next { s with
        win := s.win.set 31 (sample s.cfg raw)
        winWritten := s.winWritten.set 31 true
        pending := false, fill := 0, sampling := false, ready := true
        convReq := false, readData := none, epoch := n })

/-- R101: the stored sample is exactly (raw - CAL_OFFSET) * 8, in [-8184, 8184]. -/
def Obligations.SampleIsExact : Prop :=
  ∀ (p : Params) (raw : RawReading),
    (sample p raw).toInt = ((raw.toNat : Int) - (p.calOffset.toNat : Int)) * 8 ∧
    -8184 ≤ (sample p raw).toInt ∧ (sample p raw).toInt ≤ 8184

/-- R107: from RESET or an accepted ARM, with any operations but RESET in between, while fewer than 32 CONV_DONEs have been
accepted READY is 0 and slot k holds the sample of the (k+1)-th of them; the 32nd sets READY, and the window then
holds the 32 samples in acquisition order. -/
def Obligations.WindowIsCompleteInAcquisitionOrder : Prop :=
  ∀ (s₀ s t : State) (ops : List Instr),
    (exec .reset s₀ = .next s ∨
      (Inv s₀ ∧ s₀.ready = true ∧ s₀.busy = false ∧ exec .cmdArm s₀ = .next s)) →
    (∀ i ∈ ops, i ≠ .reset) → runOps ops s = some t →
    ((acceptedRaws ops s).length < 32 →
      t.ready = false ∧
      ∀ (k : Fin 32) (raw : RawReading), (acceptedRaws ops s)[k.val]? = some raw → t.win.get k = sample s.cfg raw) ∧
    ((acceptedRaws ops s).length = 31 → t.pending = true → ∀ last : RawReading,
      ∃ u, exec (.convDone last) t = .next u ∧ u.ready = true ∧
        ∀ k : Fin 32, ∃ raw, (acceptedRaws ops s ++ [last])[k.val]? = some raw ∧ u.win.get k = sample s.cfg raw)

/-- R108: while READY = 1, no operation but RESET writes any WIN[i], and only an accepted ARM or a RESET ends it. -/
def Obligations.NoOverwriteWhileFull : Prop :=
  ∀ (s t : State) (i : Instr), Inv s → s.ready = true → exec i s = .next t →
    (i ≠ .reset → t.win = s.win ∧ t.winWritten = s.winWritten) ∧
    (t.ready = true ∨ (i = .cmdArm ∧ s.busy = false) ∨ i = .reset)

/-- A STATUS read that returns READY = 1 is ordered after the writes of all 32 samples, and every later window read, whatever
is done in between short of an ARM or a RESET, returns the sample the window held at the STATUS read
(spec/20_memory.md section 4). -/
def Obligations.ReadyIsReadAfterAllSamples : Prop :=
  ∀ (s t : State) (v : BusData), Inv s → exec .rdStatus s = .next t → t.readData = some v → v.getLsbD 0 = true →
    (∀ i : Fin 32, s.winWritten.get i = true) ∧
    ∀ (ops : List Instr) (u : State), (∀ j ∈ ops, j ≠ .cmdArm ∧ j ≠ .reset) → runOps ops t = some u →
      ∀ i : Fin 32, ∃ w, exec (.rdWin i) u = .next w ∧ w.readData = some (s.win.get i)

/-- R105: if the conversion in flight never completes, PENDING stays 1, every TICK is dropped, FILL never advances and READY
is never set, whatever is done short of a RESET. -/
def Obligations.StalledConversionHangsTheBlock : Prop :=
  ∀ (s t : State) (ops : List Instr), Inv s → s.pending = true →
    (∀ i ∈ ops, i ≠ .reset ∧ ∀ raw, i ≠ .convDone raw) → runOps ops s = some t →
    t.pending = true ∧ t.fill = s.fill ∧ t.ready = false ∧ t.win = s.win ∧
    ∃ u, exec .tick t = .next u ∧ u.convReq = false ∧ u.pending = true

/-- A window needs at least 32 TICKs after RESET or an accepted ARM (spec/40_acquisition.md section 6). -/
def Obligations.WindowNeedsThirtyTwoTicks : Prop :=
  ∀ (s₀ s t : State) (ops : List Instr),
    (exec .reset s₀ = .next s ∨
      (Inv s₀ ∧ s₀.ready = true ∧ s₀.busy = false ∧ exec .cmdArm s₀ = .next s)) →
    (∀ i ∈ ops, i ≠ .reset) → runOps ops s = some t → t.ready = true → 32 ≤ ops.count .tick

/-- R36: conv_req is driven by an accepted TICK and by no other operation. -/
def Obligations.OnlyAnAcceptedTickDrivesConvReq : Prop :=
  ∀ (s t : State) (i : Instr), exec i s = .next t →
    (t.convReq = true ↔ i = .tick ∧ s.sampling = true ∧ s.pending = false)

/-- Under the ADC contract, between two CONV_DONEs a TICK drives conv_req: the ADC delivers at most one per request
(spec/40_acquisition.md section 3). -/
def Obligations.OneConversionPerRequest : Prop :=
  ∀ (ops : Nat → Instr) (run : Nat → State), (∀ n, exec (ops n) (run n) = .next (run (n + 1))) → AdcContract ops run →
    ∀ (n m : Nat) (raw raw' : RawReading), n < m → ops n = .convDone raw → ops m = .convDone raw' →
      ∃ k, n < k ∧ k < m ∧ ops k = .tick ∧ (run (k + 1)).convReq = true

/-! ## Transform -/

/-- R140: START while BUSY raises Err(3), while not READY Err(2), and otherwise begins a run. -/
def Obligations.StartBeginsARun : Prop :=
  (∀ w : BusWord, w &&& 0xFFFEFFFF = 0x80000002 → decodeBus w = .ok .cmdStart) ∧
  ∀ s : State,
    (s.busy = true → ∃ n, exec .cmdStart s = .next { s with
      errcode := if s.errcode = 0 then 3 else s.errcode, convReq := false, readData := none, epoch := n }) ∧
    (s.busy = false → s.ready = false → ∃ n, exec .cmdStart s = .next { s with
      errcode := if s.errcode = 0 then 2 else s.errcode, convReq := false, readData := none, epoch := n }) ∧
    (s.busy = false → s.ready = true → ∃ n, exec .cmdStart s = .next { s with
      busy := true, done := false, ovf := false, convReq := false, readData := none, epoch := n })

/-- R143: while BUSY = 1, XFORM_DONE writes the 16 bins, none of them negative, and the OR of their verdicts, clears BUSY, sets DONE and changes
nothing else; while BUSY = 0 the step is not offered. -/
def Obligations.XformDonePublishesTheBins : Prop :=
  encode .xformDone = .internal ∧
  ∀ s : State,
    (s.busy = true → ∃ t, exec .xformDone s = .next t ∧
      (∀ u : Fin 16, (t.bin.get u).toInt = (magnitude s.cfg s.window u.val : Int)) ∧
      (t.ovf = true ↔ ∃ u : Fin 16, binOverflow s.cfg s.window u.val = true) ∧
      t.busy = false ∧ t.done = true ∧ t.convReq = false ∧ t.readData = none ∧
      { t with bin := s.bin, ovf := s.ovf, busy := s.busy, done := s.done, convReq := s.convReq, readData := s.readData,
               epoch := s.epoch } = s) ∧
    (s.busy = false → exec .xformDone s = .refused .xformDoneNotEnabled)

/-- R144, R146: the accumulators start at 0 and take, for each k in ascending order, the products with the cosine and sine
entries at the reduced indices, wrapped to 32 bits; im by subtraction. -/
def Obligations.AccumulatorsFollowTheRecurrence : Prop :=
  ∀ (p : Params) (x : Window) (u : Nat),
    reAcc p x u 0 = 0 ∧ imAcc p x u 0 = 0 ∧
    ∀ k : Fin 32,
      reAcc p x u (k.val + 1) = Int.bmod (reAcc p x u k.val + x k * sine p ((u * k.val % 32 + 8) % 32)) (2 ^ 32) ∧
      imAcc p x u (k.val + 1) = Int.bmod (imAcc p x u k.val - x k * sine p (u * k.val % 32)) (2 ^ 32)

/-- R145: every product of a sample and a table entry fits a 32-bit signed value. -/
def Obligations.ProductsFitThirtyTwoBits : Prop :=
  ∀ (p : Params) (x : Window) (u k : Nat), (∀ i, |x i| ≤ 8184) →
    |prodCos p x u k| ≤ 268173312 ∧ |prodSin p x u k| ≤ 268173312

/-- R147: a bin overflows exactly when an exact partial sum RE_1 .. RE_32 or IM_1 .. IM_32 leaves the 32-bit range or a
scaled value is -2^31, which needs SCALE_DIV = 1; when it does not, the accumulators hold the exact sums. -/
def Obligations.OverflowVerdictIsExact : Prop :=
  ∀ (p : Params) (x : Window) (u : Nat),
    (binOverflow p x u = true ↔
      (∃ k, 1 ≤ k ∧ k ≤ 32 ∧
        (cosSum p x u k < -2 ^ 31 ∨ 2 ^ 31 - 1 < cosSum p x u k ∨
         -sinSum p x u k < -2 ^ 31 ∨ 2 ^ 31 - 1 < -sinSum p x u k)) ∨
      (reAcc p x u 32).tdiv (scaleDiv p) = -2 ^ 31 ∨ (imAcc p x u 32).tdiv (scaleDiv p) = -2 ^ 31) ∧
    ((reAcc p x u 32).tdiv (scaleDiv p) = -2 ^ 31 ∨ (imAcc p x u 32).tdiv (scaleDiv p) = -2 ^ 31 → scaleDiv p = 1) ∧
    (binOverflow p x u = false → reAcc p x u 32 = cosSum p x u 32 ∧ imAcc p x u 32 = -sinSum p x u 32)

/-- R148, R149: the accumulators are divided by SCALE_DIV with truncation toward zero (R13: the sign times the floor of the
quotient of the absolute values), the bin is a quarter of the sum of the absolute values, rounded down, and it lies in
[0, 2^30]. -/
def Obligations.MagnitudeIsScaledAndBounded : Prop :=
  ∀ (p : Params) (x : Window) (u : Nat),
    reScaled p x u = (reAcc p x u 32).sign * ((reAcc p x u 32).natAbs / (scaleDiv p).toNat : Nat) ∧
    imScaled p x u = (imAcc p x u 32).sign * ((imAcc p x u 32).natAbs / (scaleDiv p).toNat : Nat) ∧
    magnitude p x u = ((reScaled p x u).natAbs + (imScaled p x u).natAbs) / 4 ∧
    magnitude p x u ≤ 2 ^ 30

/-- R150: without overflow the bin is the closed form over the exact sums. -/
def Obligations.ClosedFormWithoutOverflow : Prop :=
  ∀ (p : Params) (x : Window) (u : Nat), binOverflow p x u = false →
    magnitude p x u =
      ((cosSum p x u 32).natAbs / (scaleDiv p).toNat + (sinSum p x u 32).natAbs / (scaleDiv p).toNat) / 4

/-- R151: with every table entry at most 8191 in absolute value, no bin of any window of samples overflows, and every exact
partial sum is at most 2145124608 in absolute value; with larger entries a window of large samples can overflow. -/
def Obligations.SmallTablesNeverOverflow : Prop :=
  (∀ (p : Params) (x : Window) (u : Nat), (∀ i : Nat, |sine p i| ≤ 8191) → (∀ i, |x i| ≤ 8184) →
    binOverflow p x u = false ∧
    (∀ k ≤ 32, |cosSum p x u k| ≤ 2145124608 ∧ |sinSum p x u k| ≤ 2145124608) ∧
    |reAcc p x u 32| < 2 ^ 31 ∧ |imAcc p x u 32| < 2 ^ 31 ∧ reScaled p x u ≠ -2 ^ 31 ∧ imScaled p x u ≠ -2 ^ 31) ∧
  ∃ (p : Params) (x : Window) (u : Fin 16), (∀ i, |x i| ≤ 8184) ∧ binOverflow p x u.val = true

/-- R153: two runs over the same window, table and divisor give the same bins and the same verdict, whatever else differs. -/
def Obligations.RunsDependOnlyOnTheWindow : Prop :=
  ∀ s s' : State, s.cfg.sineTable = s'.cfg.sineTable → s.cfg.scaleDivPred = s'.cfg.scaleDivPred →
    (∀ i, s.readWin i = s'.readWin i) → s.busy = true → s'.busy = true →
    ∃ t t', exec .xformDone s = .next t ∧ exec .xformDone s' = .next t' ∧ t.bin = t'.bin ∧ t.ovf = t'.ovf

/-- R155: a window of zeros gives 16 bins of 0 and no overflow under every table and divisor; a raw reading equal to
CAL_OFFSET is the sample 0. -/
def Obligations.ZeroWindowGivesZeroBins : Prop :=
  (∀ (p : Params) (x : Window) (u : Nat), (∀ i, x i = 0) →
    (∀ k ≤ 32, cosSum p x u k = 0 ∧ sinSum p x u k = 0) ∧ binOverflow p x u = false ∧ magnitude p x u = 0) ∧
  (∀ s : State, s.busy = true → (∀ i, s.readWin i = 0) →
    ∃ t, exec .xformDone s = .next t ∧ (∀ u, t.bin.get u = 0) ∧ t.ovf = false) ∧
  (∀ (p : Params) (raw : RawReading), raw.toNat = p.calOffset.toNat → sample p raw = 0)

/-- R156: for bin 0 the partial sums RE_32 and IM_32 of the transform are SINE_TABLE[8] and -SINE_TABLE[0] times the window's
sum, and without overflow the bin XFORM_DONE writes is the magnitude of those two products. -/
def Obligations.BinZeroMeasuresTheSum : Prop :=
  (∀ (p : Params) (x : Window),
    reExact p x 0 32 = sine p 8 * ∑ i : Fin 32, x i ∧ imExact p x 0 32 = -(sine p 0) * ∑ i : Fin 32, x i) ∧
  (∀ s : State, s.busy = true → binOverflow s.cfg s.window 0 = false →
    ∃ t, exec .xformDone s = .next t ∧ (t.bin.get 0).toNat =
      ((sine s.cfg 8 * ∑ i : Fin 32, s.window i).natAbs / (scaleDiv s.cfg).toNat +
        (sine s.cfg 0 * ∑ i : Fin 32, s.window i).natAbs / (scaleDiv s.cfg).toNat) / 4)

/-- R142: between an accepted START and its XFORM_DONE, READY stays 1 and no operation writes WIN; the run gives at its
XFORM_DONE the bins it would have given at its START. -/
def Obligations.RunReadsTheWindowOfItsStart : Prop :=
  ∀ (s₀ s t : State) (ops : List Instr), Inv s₀ → s₀.ready = true → s₀.busy = false → exec .cmdStart s₀ = .next s →
    (∀ i ∈ ops, i ≠ .reset ∧ i ≠ .xformDone) → runOps ops s = some t →
    t.ready = true ∧ t.busy = true ∧ t.win = s.win ∧ t.winWritten = s.winWritten ∧
    ∃ u v, exec .xformDone s = .next u ∧ exec .xformDone t = .next v ∧ u.bin = v.bin ∧ u.ovf = v.ovf

/-- R141: while BUSY = 1 the XFORM_DONE step is enabled, and in every execution of the block it is taken, unless a RESET
discards the run. -/
def Obligations.EveryRunCompletesOrIsReset : Prop :=
  ∀ (ops : Nat → Instr) (run : Nat → State), Execution ops run → ∀ n, (run n).busy = true →
    (∃ t, exec .xformDone (run n) = .next t ∧ t.busy = false ∧ t.done = true) ∧
    ∃ m, n ≤ m ∧ (∀ j, n ≤ j → j ≤ m → (run j).busy = true) ∧
      ((ops m = .xformDone ∧ (run (m + 1)).done = true) ∨ ops m = .reset)

/-! ## Host commands -/

/-- R181: ARM while BUSY raises Err(5), while not READY Err(4), and otherwise re-arms acquisition. -/
def Obligations.ArmRearmsAcquisition : Prop :=
  (∀ w : BusWord, w &&& 0xFFFEFFFF = 0x80000001 → decodeBus w = .ok .cmdArm) ∧
  ∀ s : State,
    (s.busy = true → ∃ n, exec .cmdArm s = .next { s with
      errcode := if s.errcode = 0 then 5 else s.errcode, convReq := false, readData := none, epoch := n }) ∧
    (s.busy = false → s.ready = false → ∃ n, exec .cmdArm s = .next { s with
      errcode := if s.errcode = 0 then 4 else s.errcode, convReq := false, readData := none, epoch := n }) ∧
    (s.busy = false → s.ready = true → ∃ n, exec .cmdArm s = .next { s with
      ready := false, fill := 0, sampling := true, convReq := false, readData := none, epoch := n })

/-- R182, R186: NOP, and a write to any offset but CMD, leave every register as it was and raise no error. -/
def Obligations.NopAndOtherWritesChangeNothing : Prop :=
  (∀ w : BusWord, w &&& 0xFFFEFFFF = 0x80000000 → decodeBus w = .ok .cmdNop) ∧
  (∀ s : State, ∃ n, exec .cmdNop s = .next { s with convReq := false, readData := none, epoch := n }) ∧
  (∀ (s : State) (a : Offset) (d : BusData), 2 ≤ a.toNat →
    ∃ i n, decodeBus (busDescriptor true a d) = .ok i ∧ i = .wrOther a d ∧
      exec i s = .next { s with convReq := false, readData := none, epoch := n })

/-- R183: CLRERR clears ERRCODE in every state and changes nothing else. -/
def Obligations.ClrerrClearsTheError : Prop :=
  (∀ w : BusWord, w &&& 0xFFFEFFFF = 0x80000003 → decodeBus w = .ok .cmdClrerr) ∧
  ∀ s : State, ∃ n, exec .cmdClrerr s = .next { s with errcode := 0, convReq := false, readData := none, epoch := n }

/-- R74, R184: a write to CMD with D[15:4] other than 0 or OP in [0x4, 0xF] changes no state but ERRCODE and raises Err(1). -/
def Obligations.ReservedCommandsRaiseErrorOne : Prop :=
  ∀ (s : State) (a : Offset) (d : BusData), a.toNat < 2 → (16 ≤ d.toNat ∨ 4 ≤ d.toNat % 16) →
    decodeBus (busDescriptor true a d) = .ok (.cmdRsvd d) ∧
    ∃ n, exec (.cmdRsvd d) s = .next { s with
      errcode := if s.errcode = 0 then 1 else s.errcode, convReq := false, readData := none, epoch := n }

/-! ## Register reads -/

/-- R187, R196: a read of CMD and a read of a reserved offset return 0x0000 and change nothing. -/
def Obligations.CmdAndReservedReadZero : Prop :=
  (∀ w : BusWord, w &&& 0xFFFE0000 = 0x00000000 → decodeBus w = .ok .rdCmd) ∧
  (∀ s : State, exec .rdCmd s = .next { s with convReq := false, readData := some 0x0000 }) ∧
  (∀ (s : State) (a : Offset) (d : BusData), (0x0A ≤ a.toNat ∧ a.toNat ≤ 0x3F) ∨ 0xE0 ≤ a.toNat →
    decodeBus (busDescriptor false a d) = .ok (.rdRsvd a) ∧
    exec (.rdRsvd a) s = .next { s with convReq := false, readData := some 0x0000 })

/-- R188: a read of STATUS returns READY, SAMPLING, PENDING, BUSY, DONE and OVF in bits 0 to 5 and 0 above, and changes
nothing. -/
def Obligations.StatusReadsTheFlags : Prop :=
  (∀ w : BusWord, w &&& 0xFFFE0000 = 0x00020000 → decodeBus w = .ok .rdStatus) ∧
  ∀ s : State, ∃ v, exec .rdStatus s = .next { s with convReq := false, readData := some v } ∧
    v.getLsbD 0 = s.ready ∧ v.getLsbD 1 = s.sampling ∧ v.getLsbD 2 = s.pending ∧ v.getLsbD 3 = s.busy ∧
    v.getLsbD 4 = s.done ∧ v.getLsbD 5 = s.ovf ∧ ∀ j, 6 ≤ j → v.getLsbD j = false

/-- R189, R190, R191: FILL, ERR and CALOFS read FILL, ERRCODE and CAL_OFFSET extended with zeros, and change nothing. -/
def Obligations.FillErrAndCalofsReadTheirValues : Prop :=
  (∀ w : BusWord, w &&& 0xFFFE0000 = 0x00040000 → decodeBus w = .ok .rdFill) ∧
  (∀ w : BusWord, w &&& 0xFFFE0000 = 0x00060000 → decodeBus w = .ok .rdErr) ∧
  (∀ w : BusWord, w &&& 0xFFFE0000 = 0x00080000 → decodeBus w = .ok .rdCalofs) ∧
  ∀ s : State,
    (∃ v, exec .rdFill s = .next { s with convReq := false, readData := some v } ∧ v.toNat = s.fill.toNat) ∧
    (∃ v, exec .rdErr s = .next { s with convReq := false, readData := some v } ∧ v.toNat = s.errcode.toNat) ∧
    (∃ v, exec .rdCalofs s = .next { s with convReq := false, readData := some v } ∧ v.toNat = s.cfg.calOffset.toNat)

/-- R192: a read of WIN[i] returns the pattern the slot holds if it has been written since RESET, and some 16-bit value
otherwise; either way it changes nothing. -/
def Obligations.WindowReadsTheSample : Prop :=
  (∀ w : BusWord, w &&& 0xFFC00000 = 0x00400000 → decodeBus w = .ok (.rdWin (w.extractLsb' 17 5).toFin)) ∧
  ∀ (s : State) (i : Fin 32), ∃ v, exec (.rdWin i) s = .next { s with convReq := false, readData := some v } ∧
    (s.winWritten.get i = true → v = s.win.get i)

/-- R193, R194: BINLO and BINHI return the halves of BIN[u] and change nothing. -/
def Obligations.BinHalvesRead : Prop :=
  (∀ w : BusWord, w &&& 0xFFC20000 = 0x00800000 → decodeBus w = .ok (.rdBinlo (w.extractLsb' 18 4).toFin)) ∧
  (∀ w : BusWord, w &&& 0xFFC20000 = 0x00820000 → decodeBus w = .ok (.rdBinhi (w.extractLsb' 18 4).toFin)) ∧
  ∀ (s : State) (u : Fin 16), ∃ lo hi : BusData,
    exec (.rdBinlo u) s = .next { s with convReq := false, readData := some lo } ∧
    exec (.rdBinhi u) s = .next { s with convReq := false, readData := some hi } ∧
    (s.bin.get u).toNat = 65536 * hi.toNat + lo.toNat ∧
    (Inv s → hi.toNat ≤ 0x4000)

/-- R195, R152: BINC returns BIN[u] clipped to [0, 14] and changes nothing. -/
def Obligations.ClippedBinReads : Prop :=
  (∀ w : BusWord, w &&& 0xFFE00000 = 0x00C00000 → decodeBus w = .ok (.rdBinc (w.extractLsb' 17 4).toFin)) ∧
  (∀ v : Int, clip v = min (max v 0) 14 ∧ 0 ≤ clip v ∧ clip v ≤ 14 ∧ (0 ≤ v → clip v = min v 14)) ∧
  (∀ (s : State) (u : Fin 16), ∃ v, exec (.rdBinc u) s = .next { s with convReq := false, readData := some v } ∧
    (v.toNat : Int) = min (max (s.bin.get u).toInt 0) 14)

/-- Reads have no side effect: a read changes only the two outputs, and after any further reads it returns the same value
again (spec/20_memory.md section 3). -/
def Obligations.ReadsHaveNoSideEffect : Prop :=
  ∀ (i : Instr) (s : State), isRead i = true →
    ∃ v, exec i s = .next { s with convReq := false, readData := some v } ∧
      ∀ (ops : List Instr), (∀ j ∈ ops, isRead j = true) →
        ∃ t, runOps ops s = some t ∧ exec i t = .next { t with convReq := false, readData := some v }

/-- R51, R55: every read descriptor returns the content the register map gives its offset; every write descriptor at an
offset other than 0x00 and 0x01 changes no state and raises no error. -/
def Obligations.AccessesFollowTheRegisterMap : Prop :=
  (∀ (s : State) (a : Offset) (d : BusData), ∃ i, decodeBus (busDescriptor false a d) = .ok i ∧
    exec i s = .next { s with convReq := false, readData := some (s.regRead a) }) ∧
  (∀ (s : State) (a : Offset) (d : BusData), 2 ≤ a.toNat → ∃ i n, decodeBus (busDescriptor true a d) = .ok i ∧
    exec i s = .next { s with convReq := false, readData := none, epoch := n })

/-- The four bytes a little-endian host reads at 0x80 + 4u are BIN[u], least significant first (spec/20_memory.md section 2). -/
def Obligations.BinBytesAreLittleEndian : Prop :=
  ∀ (s : State) (u : Fin 16) (j : Fin 4),
    s.regByte (BitVec.ofNat 8 (0x80 + 4 * u.val + j.val)) = (s.bin.get u).extractLsb' (8 * j.val) 8

/-- A host address reaches the block exactly in [BASE, BASE + 0xFF], at the offset a - BASE (spec/20_memory.md section 1). -/
def Obligations.HostAddressesReachTheBlockAtBase : Prop :=
  ∀ (p : Params) (a : Nat),
    (p.base ≤ a → a ≤ p.base + 0xFF → ∃ o, hostOffset p a = some o ∧ p.base + o.toNat = a) ∧
    (a < p.base ∨ p.base + 0xFF < a → hostOffset p a = none)

/-- R11: a configuration is refused exactly when CAL_OFFSET, a table entry or SCALE_DIV lies outside its range; one that is
admitted holds the values it was given. -/
def Obligations.ConfigurationsOutsideTheRangesAreRefused : Prop :=
  ∀ (cal : Int) (table : Vector Int 32) (div : Int) (base : Nat),
    (configure cal table div base = none ↔
      cal < 0 ∨ 1023 < cal ∨ (∃ i : Fin 32, table.get i < -32768 ∨ 32767 < table.get i) ∨ div < 1 ∨ 2 ^ 31 - 1 < div) ∧
    ∀ p, configure cal table div base = some p →
      calOffset p = cal ∧ (∀ i : Fin 32, sine p i.val = table.get i) ∧ scaleDiv p = div ∧ p.base = base

/-! ## Errors -/

/-- R222: the first error since the last RESET or CLRERR is kept: while ERRCODE is not 0 no other operation changes it. -/
def Obligations.FirstErrorIsKept : Prop :=
  (∀ (s : State) (e : Err), s.errcode = 0 → (s.raise e).errcode = e.code) ∧
  (∀ (s t : State) (i : Instr), exec i s = .next t → s.errcode ≠ 0 → i ≠ .reset → i ≠ .cmdClrerr →
    t.errcode = s.errcode)

/-- R220: with no error recorded, exactly the commands of the error table record one, each its own code. -/
def Obligations.ErrorsFollowTheErrorTable : Prop :=
  (∀ (s t : State) (i : Instr), BusyIsReady s → s.errcode = 0 → exec i s = .next t → t.errcode ≠ 0 →
    ((∃ d, i = .cmdRsvd d) ∧ t.errcode = 1) ∨
    (i = .cmdStart ∧ s.ready = false ∧ t.errcode = 2) ∨ (i = .cmdStart ∧ s.busy = true ∧ t.errcode = 3) ∨
    (i = .cmdArm ∧ s.ready = false ∧ t.errcode = 4) ∨ (i = .cmdArm ∧ s.busy = true ∧ t.errcode = 5)) ∧
  (∀ s : State, BusyIsReady s → s.errcode = 0 →
    (∀ d, ∃ t, exec (.cmdRsvd d) s = .next t ∧ t.errcode = 1) ∧
    (s.ready = false → ∃ t, exec .cmdStart s = .next t ∧ t.errcode = 2) ∧
    (s.busy = true → ∃ t, exec .cmdStart s = .next t ∧ t.errcode = 3) ∧
    (s.ready = false → ∃ t, exec .cmdArm s = .next t ∧ t.errcode = 4) ∧
    (s.busy = true → ∃ t, exec .cmdArm s = .next t ∧ t.errcode = 5))

/-- The transition that raises an error makes no other change (spec/60_exceptions.md section 1). -/
def Obligations.RaisingAnErrorChangesNothingElse : Prop :=
  ∀ (s t : State) (i : Instr), exec i s = .next t → i ≠ .reset → i ≠ .cmdClrerr → t.errcode ≠ s.errcode →
    ∃ n, t = { s with errcode := t.errcode, convReq := false, readData := none, epoch := n }

/-- A START that is refused is not remembered: however the block goes on, no run begins without another START
(spec/70_reset_and_hazards.md section 3). -/
def Obligations.RefusedStartIsNotDeferred : Prop :=
  ∀ (s t u : State) (ops : List Instr), Inv s → s.ready = false → exec .cmdStart s = .next t →
    (∀ i ∈ ops, i ≠ .cmdStart) → runOps ops t = some u → t.busy = false ∧ u.busy = false

/-! ## Invariants of the whole machine -/

/-- The invariants I1 to I7 and I9 of the spec hold after every step from a state in which they hold. -/
def Obligations.StepKeepsTheInvariants : Prop :=
  ∀ s t : State, Inv s → step s = .next t → Inv t

/-- After every step the written slots of the window hold samples of raw readings and the others hold nothing, if they did
before. -/
def Obligations.StepKeepsTheWindow : Prop :=
  ∀ s t : State, WindowHoldsSamples s → WindowCanonical s → step s = .next t →
    WindowHoldsSamples t ∧ WindowCanonical t

/-- R21: no step writes the configuration. -/
def Obligations.ConfigurationIsNeverWritten : Prop :=
  ∀ s t : State, step s = .next t → t.cfg = s.cfg

/-- The writers of each state element: an operation other than those the element's rule names leaves it as it was
(spec/10_state.md sections 3 to 5). -/
def Obligations.StateIsWrittenOnlyByItsWriters : Prop :=
  ∀ (s t : State) (i : Instr), exec i s = .next t → i ≠ .reset →
    (i ≠ .cmdArm → (∀ raw, i ≠ .convDone raw) →
      t.ready = s.ready ∧ t.sampling = s.sampling ∧ t.fill = s.fill) ∧
    (i ≠ .tick → (∀ raw, i ≠ .convDone raw) → t.pending = s.pending) ∧
    ((∀ raw, i ≠ .convDone raw) → t.win = s.win ∧ t.winWritten = s.winWritten) ∧
    (i ≠ .cmdStart → i ≠ .xformDone → t.busy = s.busy ∧ t.done = s.done ∧ t.ovf = s.ovf) ∧
    (i ≠ .xformDone → t.bin = s.bin) ∧
    ((∀ d, i ≠ .cmdRsvd d) → i ≠ .cmdStart → i ≠ .cmdArm → i ≠ .cmdClrerr → t.errcode = s.errcode) ∧
    t.agenda = s.agenda
end

