-- ==== Sys2Proof/Laws/Decode.lean ====
section
/-! SUPPORT. The fields of a descriptor and of a vector built from fields, and the descriptor its fields make
(spec/30_encoding.md R71, R72); what the decoder can answer. -/

namespace Sys2Proof

/-! ## BUS descriptors -/

theorem getLsbD_busDescriptor (wr : Bool) (a : Offset) (d : BusData) (i : Nat) :
    (busDescriptor wr a d).getLsbD i =
      if i < 16 then d.getLsbD i
      else if i < 24 then a.getLsbD (i - 16)
      else if i < 31 then false
      else (BitVec.ofBool wr).getLsbD (i - 31) := by
  refine (BitVec.getLsbD_append (x := BitVec.ofBool wr) (y := (0#7 ++ (a ++ d) : BitVec (7 + (8 + 16))))).trans ?_
  rw [BitVec.getLsbD_append, BitVec.getLsbD_append]
  grind

theorem extractLsb'_one {n : Nat} (w : BitVec n) (k : Nat) : w.extractLsb' k 1 = BitVec.ofBool (w.getLsbD k) := by
  apply BitVec.eq_of_getLsbD_eq
  intro i hi
  obtain rfl : i = 0 := by omega
  simp

theorem ofBool_beq_one (b : Bool) : (BitVec.ofBool b == 1) = b := by cases b <;> rfl

@[simp] theorem busD_busDescriptor (wr : Bool) (a : Offset) (d : BusData) : busD (busDescriptor wr a d) = d := by
  apply BitVec.eq_of_getLsbD_eq
  intro i hi
  simp [busD, getLsbD_busDescriptor, hi]

@[simp] theorem busA_busDescriptor (wr : Bool) (a : Offset) (d : BusData) : busA (busDescriptor wr a d) = a := by
  apply BitVec.eq_of_getLsbD_eq
  intro i hi
  simp [busA, getLsbD_busDescriptor, hi, show 16 + i < 24 by omega]

@[simp] theorem busZ_busDescriptor (wr : Bool) (a : Offset) (d : BusData) : busZ (busDescriptor wr a d) = 0 := by
  apply BitVec.eq_of_getLsbD_eq
  intro i hi
  simp [busZ, BitVec.getLsbD_extractLsb', getLsbD_busDescriptor, show ¬ 24 + i < 16 by omega, show 24 + i < 31 by omega]

@[simp] theorem busW_busDescriptor (wr : Bool) (a : Offset) (d : BusData) : busW (busDescriptor wr a d) = wr := by
  rw [busW, extractLsb'_one, getLsbD_busDescriptor]
  cases wr <;> rfl

/-- A descriptor with Z = 0 is its own fields put together. -/
theorem busDescriptor_fields (w : BusWord) (h : busZ w = 0) : busDescriptor (busW w) (busA w) (busD w) = w := by
  have hw : BitVec.ofBool (busW w) = w.extractLsb' 31 1 := by rw [busW, extractLsb'_one, ofBool_beq_one]
  have hz : (0#7) = w.extractLsb' 24 7 := h.symm
  rw [busDescriptor, hw, hz, busA, busD, BitVec.extractLsb'_append_extractLsb'_eq_extractLsb' (by rfl),
    BitVec.extractLsb'_append_extractLsb'_eq_extractLsb' (by rfl),
    BitVec.extractLsb'_append_extractLsb'_eq_extractLsb' (by rfl)]
  simp

/-! ## EVT vectors -/

theorem getLsbD_evtVector (r t c : Bool) (raw : RawReading) (i : Nat) :
    (evtVector r t c raw).getLsbD i =
      if i < 10 then raw.getLsbD i
      else if i < 11 then (BitVec.ofBool c).getLsbD (i - 10)
      else if i < 12 then (BitVec.ofBool t).getLsbD (i - 11)
      else (BitVec.ofBool r).getLsbD (i - 12) := by
  refine (BitVec.getLsbD_append (x := BitVec.ofBool r)
    (y := (BitVec.ofBool t ++ (BitVec.ofBool c ++ raw) : BitVec (1 + (1 + 10))))).trans ?_
  rw [BitVec.getLsbD_append, BitVec.getLsbD_append]
  grind

@[simp] theorem evtV_evtVector (r t c : Bool) (raw : RawReading) : evtV (evtVector r t c raw) = raw := by
  apply BitVec.eq_of_getLsbD_eq
  intro i hi
  simp [evtV, getLsbD_evtVector, hi]

@[simp] theorem evtC_evtVector (r t c : Bool) (raw : RawReading) : evtC (evtVector r t c raw) = c := by
  rw [evtC, extractLsb'_one, getLsbD_evtVector]
  cases c <;> rfl

@[simp] theorem evtT_evtVector (r t c : Bool) (raw : RawReading) : evtT (evtVector r t c raw) = t := by
  rw [evtT, extractLsb'_one, getLsbD_evtVector]
  cases t <;> rfl

@[simp] theorem evtR_evtVector (r t c : Bool) (raw : RawReading) : evtR (evtVector r t c raw) = r := by
  rw [evtR, extractLsb'_one, getLsbD_evtVector]
  cases r <;> rfl

/-! ## What the decoder answers -/

/-- The decoder refuses exactly the descriptors with Z other than 0, and for one reason. -/
theorem decodeBus_error {w : BusWord} {r : Reject} (h : decodeBus w = .error r) :
    busZ w ≠ 0 ∧ r = .notATransaction := by
  unfold decodeBus at h
  split at h
  · split at h
    · split at h <;> cases h
    · cases h
  · exact ⟨‹_›, by cases h; rfl⟩

/-- What a descriptor with Z = 0 decodes to, by its fields W, A and D. -/
theorem decodeBus_of_busZ {w : BusWord} (h : busZ w = 0) :
    decodeBus w = .ok (if busW w then (if isCmdOffset (busA w) then decodeCommand (busD w)
      else .wrOther (busA w) (busD w)) else decodeRead (busA w)) := by
  unfold decodeBus
  rw [if_pos h]
  split <;> [split; skip] <;> rfl

theorem evtR_eq (v : EvtWord) : evtR v = v.getLsbD 12 := by rw [evtR, extractLsb'_one, ofBool_beq_one]

theorem evtT_eq (v : EvtWord) : evtT v = v.getLsbD 11 := by rw [evtT, extractLsb'_one, ofBool_beq_one]

theorem evtC_eq (v : EvtWord) : evtC v = v.getLsbD 10 := by rw [evtC, extractLsb'_one, ofBool_beq_one]

/-- D[15:4] is 0 exactly when the word is below 16. -/
theorem command_high_eq_zero {d : BusData} : d.extractLsb' 4 12 = 0 ↔ d.toNat < 16 := by
  rw [← BitVec.toNat_inj]
  simp [BitVec.extractLsb'_toNat, Nat.shiftRight_eq_div_pow]
  omega

/-- OP as a number. -/
theorem command_op_eq {d : BusData} {n : Nat} (hn : n < 16) : d.extractLsb' 0 4 = BitVec.ofNat 4 n ↔ d.toNat % 16 = n := by
  rw [← BitVec.toNat_inj]
  simp [BitVec.extractLsb'_toNat, Nat.mod_eq_of_lt hn]

/-- The command of a data word: the four defined ones are single words. -/
theorem decodeCommand_eq (d : BusData) :
    decodeCommand d = if d.toNat = 0 then .cmdNop else if d.toNat = 1 then .cmdArm else if d.toNat = 2 then .cmdStart
      else if d.toNat = 3 then .cmdClrerr else .cmdRsvd d := by
  unfold decodeCommand
  rw [show (0x0 : BitVec 4) = BitVec.ofNat 4 0 from rfl, show (0x1 : BitVec 4) = BitVec.ofNat 4 1 from rfl,
    show (0x2 : BitVec 4) = BitVec.ofNat 4 2 from rfl, show (0x3 : BitVec 4) = BitVec.ofNat 4 3 from rfl]
  simp only [command_high_eq_zero, command_op_eq (show 0 < 16 by decide), command_op_eq (show 1 < 16 by decide),
    command_op_eq (show 2 < 16 by decide), command_op_eq (show 3 < 16 by decide)]
  by_cases h : d.toNat < 16
  · rw [if_pos h, Nat.mod_eq_of_lt h]
  · rw [if_neg h, if_neg (by omega), if_neg (by omega), if_neg (by omega), if_neg (by omega)]

theorem isReservedCommand_iff {d : BusData} : isReservedCommand d = true ↔ 4 ≤ d.toNat := by
  have h := command_high_eq_zero (d := d)
  simp only [isReservedCommand, Bool.or_eq_true, bne_iff_ne, ne_eq, h, decide_eq_true_eq]
  simp [BitVec.extractLsb'_toNat]
  omega

/-- A vector's operations are those after its first one, then read from what is left of it. -/
theorem decodeEvt_cases (v : EvtWord) :
    (evtR v = true ∧ decodeEvt v = [.reset]) ∨
    (evtR v = false ∧ evtC v = true ∧ evtT v = true ∧ decodeEvt v = [.convDone (evtV v), .tick]) ∨
    (evtR v = false ∧ evtC v = true ∧ evtT v = false ∧ decodeEvt v = [.convDone (evtV v)]) ∨
    (evtR v = false ∧ evtC v = false ∧ evtT v = true ∧ decodeEvt v = [.tick]) ∨
    (evtR v = false ∧ evtC v = false ∧ evtT v = false ∧ decodeEvt v = []) := by
  unfold decodeEvt
  cases evtR v <;> cases evtC v <;> cases evtT v <;> simp

/-! ## Matching a row of the opcode map (R82) -/

/-- A field of a field. -/
theorem extractLsb'_of_extractLsb' {n : Nat} (w : BitVec n) (s l : Nat) {s' l' : Nat} (h : s' + l' ≤ l) :
    (w.extractLsb' s l).extractLsb' s' l' = w.extractLsb' (s + s') l' := by
  apply BitVec.eq_of_getLsbD_eq
  intro i hi
  simp [show s' + i < l by omega, Nat.add_assoc]

/-- What a match fixes of a field. -/
theorem field_of_match {w k m : BusWord} (h : w &&& k = m) (s l : Nat) :
    w.extractLsb' s l &&& k.extractLsb' s l = m.extractLsb' s l := by
  rw [← BitVec.extractLsb'_and, h]

theorem busZ_of_match {w k m : BusWord} (h : w &&& k = m) (hk : k.extractLsb' 24 7 = 0x7F) (hm : m.extractLsb' 24 7 = 0) :
    busZ w = 0 := by
  have hf := field_of_match h 24 7
  rw [hk, hm, show (0x7F : BitVec 7) = BitVec.allOnes 7 from rfl, BitVec.and_allOnes] at hf
  exact hf

theorem busW_of_match {w k m : BusWord} (h : w &&& k = m) (hk : k.extractLsb' 31 1 = 1) :
    busW w = (m.extractLsb' 31 1 == 1) := by
  have hf := field_of_match h 31 1
  rw [hk, show (1 : BitVec 1) = BitVec.allOnes 1 from rfl, BitVec.and_allOnes] at hf
  rw [busW, hf]

/-- A descriptor that matches a row with W = Z = 0 decodes by its offset. -/
theorem decodeBus_read_of_match {w k m : BusWord} (h : w &&& k = m)
    (hk : k.extractLsb' 24 7 = 0x7F ∧ k.extractLsb' 31 1 = 1) (hm : m.extractLsb' 24 7 = 0 ∧ m.extractLsb' 31 1 = 0) :
    decodeBus w = .ok (decodeRead (busA w)) := by
  rw [decodeBus_of_busZ (busZ_of_match h hk.1 hm.1), busW_of_match h hk.2, hm.2]
  rfl

/-- A descriptor that matches a row with W = 1 and Z = 0 decodes by its offset and its data. -/
theorem decodeBus_write_of_match {w k m : BusWord} (h : w &&& k = m)
    (hk : k.extractLsb' 24 7 = 0x7F ∧ k.extractLsb' 31 1 = 1) (hm : m.extractLsb' 24 7 = 0 ∧ m.extractLsb' 31 1 = 1) :
    decodeBus w = .ok (if isCmdOffset (busA w) then decodeCommand (busD w) else .wrOther (busA w) (busD w)) := by
  rw [decodeBus_of_busZ (busZ_of_match h hk.1 hm.1), busW_of_match h hk.2, hm.2]
  rfl

end Sys2Proof
end

