-- ==== Sys2Proof/Laws/State.lean ====
section
/-! SUPPORT. What each named operation leaves in each field of State, true by rfl, so that no later proof unfolds a record
update. -/

namespace Sys2Proof.Machine

/-! ## idle -/

@[simp] theorem State.idle_cfg (s : State) : s.idle.cfg = s.cfg := rfl
@[simp] theorem State.idle_ready (s : State) : s.idle.ready = s.ready := rfl
@[simp] theorem State.idle_sampling (s : State) : s.idle.sampling = s.sampling := rfl
@[simp] theorem State.idle_fill (s : State) : s.idle.fill = s.fill := rfl
@[simp] theorem State.idle_pending (s : State) : s.idle.pending = s.pending := rfl
@[simp] theorem State.idle_win (s : State) : s.idle.win = s.win := rfl
@[simp] theorem State.idle_winWritten (s : State) : s.idle.winWritten = s.winWritten := rfl
@[simp] theorem State.idle_busy (s : State) : s.idle.busy = s.busy := rfl
@[simp] theorem State.idle_done (s : State) : s.idle.done = s.done := rfl
@[simp] theorem State.idle_ovf (s : State) : s.idle.ovf = s.ovf := rfl
@[simp] theorem State.idle_bin (s : State) : s.idle.bin = s.bin := rfl
@[simp] theorem State.idle_errcode (s : State) : s.idle.errcode = s.errcode := rfl
@[simp] theorem State.idle_convReq (s : State) : s.idle.convReq = false := rfl
@[simp] theorem State.idle_readData (s : State) : s.idle.readData = none := rfl
@[simp] theorem State.idle_epoch (s : State) : s.idle.epoch = s.epoch := rfl
@[simp] theorem State.idle_agenda (s : State) : s.idle.agenda = s.agenda := rfl

/-! ## begin -/

@[simp] theorem State.begin_cfg (s : State) : s.begin.cfg = s.cfg := rfl
@[simp] theorem State.begin_ready (s : State) : s.begin.ready = s.ready := rfl
@[simp] theorem State.begin_sampling (s : State) : s.begin.sampling = s.sampling := rfl
@[simp] theorem State.begin_fill (s : State) : s.begin.fill = s.fill := rfl
@[simp] theorem State.begin_pending (s : State) : s.begin.pending = s.pending := rfl
@[simp] theorem State.begin_win (s : State) : s.begin.win = s.win := rfl
@[simp] theorem State.begin_winWritten (s : State) : s.begin.winWritten = s.winWritten := rfl
@[simp] theorem State.begin_busy (s : State) : s.begin.busy = s.busy := rfl
@[simp] theorem State.begin_done (s : State) : s.begin.done = s.done := rfl
@[simp] theorem State.begin_ovf (s : State) : s.begin.ovf = s.ovf := rfl
@[simp] theorem State.begin_bin (s : State) : s.begin.bin = s.bin := rfl
@[simp] theorem State.begin_errcode (s : State) : s.begin.errcode = s.errcode := rfl
@[simp] theorem State.begin_convReq (s : State) : s.begin.convReq = false := rfl
@[simp] theorem State.begin_readData (s : State) : s.begin.readData = none := rfl
@[simp] theorem State.begin_epoch (s : State) : s.begin.epoch = s.epoch + 1 := rfl
@[simp] theorem State.begin_agenda (s : State) : s.begin.agenda = s.agenda := rfl

/-! ## emitConvReq -/

@[simp] theorem State.emitConvReq_cfg (s : State) : s.emitConvReq.cfg = s.cfg := rfl
@[simp] theorem State.emitConvReq_ready (s : State) : s.emitConvReq.ready = s.ready := rfl
@[simp] theorem State.emitConvReq_sampling (s : State) : s.emitConvReq.sampling = s.sampling := rfl
@[simp] theorem State.emitConvReq_fill (s : State) : s.emitConvReq.fill = s.fill := rfl
@[simp] theorem State.emitConvReq_pending (s : State) : s.emitConvReq.pending = s.pending := rfl
@[simp] theorem State.emitConvReq_win (s : State) : s.emitConvReq.win = s.win := rfl
@[simp] theorem State.emitConvReq_winWritten (s : State) : s.emitConvReq.winWritten = s.winWritten := rfl
@[simp] theorem State.emitConvReq_busy (s : State) : s.emitConvReq.busy = s.busy := rfl
@[simp] theorem State.emitConvReq_done (s : State) : s.emitConvReq.done = s.done := rfl
@[simp] theorem State.emitConvReq_ovf (s : State) : s.emitConvReq.ovf = s.ovf := rfl
@[simp] theorem State.emitConvReq_bin (s : State) : s.emitConvReq.bin = s.bin := rfl
@[simp] theorem State.emitConvReq_errcode (s : State) : s.emitConvReq.errcode = s.errcode := rfl
@[simp] theorem State.emitConvReq_convReq (s : State) : s.emitConvReq.convReq = true := rfl
@[simp] theorem State.emitConvReq_readData (s : State) : s.emitConvReq.readData = s.readData := rfl
@[simp] theorem State.emitConvReq_epoch (s : State) : s.emitConvReq.epoch = s.epoch := rfl
@[simp] theorem State.emitConvReq_agenda (s : State) : s.emitConvReq.agenda = s.agenda := rfl

/-! ## respond -/

@[simp] theorem State.respond_cfg (s : State) (v : BusData) : (s.respond v).cfg = s.cfg := rfl
@[simp] theorem State.respond_ready (s : State) (v : BusData) : (s.respond v).ready = s.ready := rfl
@[simp] theorem State.respond_sampling (s : State) (v : BusData) : (s.respond v).sampling = s.sampling := rfl
@[simp] theorem State.respond_fill (s : State) (v : BusData) : (s.respond v).fill = s.fill := rfl
@[simp] theorem State.respond_pending (s : State) (v : BusData) : (s.respond v).pending = s.pending := rfl
@[simp] theorem State.respond_win (s : State) (v : BusData) : (s.respond v).win = s.win := rfl
@[simp] theorem State.respond_winWritten (s : State) (v : BusData) : (s.respond v).winWritten = s.winWritten := rfl
@[simp] theorem State.respond_busy (s : State) (v : BusData) : (s.respond v).busy = s.busy := rfl
@[simp] theorem State.respond_done (s : State) (v : BusData) : (s.respond v).done = s.done := rfl
@[simp] theorem State.respond_ovf (s : State) (v : BusData) : (s.respond v).ovf = s.ovf := rfl
@[simp] theorem State.respond_bin (s : State) (v : BusData) : (s.respond v).bin = s.bin := rfl
@[simp] theorem State.respond_errcode (s : State) (v : BusData) : (s.respond v).errcode = s.errcode := rfl
@[simp] theorem State.respond_convReq (s : State) (v : BusData) : (s.respond v).convReq = false := rfl
@[simp] theorem State.respond_readData (s : State) (v : BusData) : (s.respond v).readData = some v := rfl
@[simp] theorem State.respond_epoch (s : State) (v : BusData) : (s.respond v).epoch = s.epoch := rfl
@[simp] theorem State.respond_agenda (s : State) (v : BusData) : (s.respond v).agenda = s.agenda := rfl

/-! ## clearError -/

@[simp] theorem State.clearError_cfg (s : State) : s.clearError.cfg = s.cfg := rfl
@[simp] theorem State.clearError_ready (s : State) : s.clearError.ready = s.ready := rfl
@[simp] theorem State.clearError_sampling (s : State) : s.clearError.sampling = s.sampling := rfl
@[simp] theorem State.clearError_fill (s : State) : s.clearError.fill = s.fill := rfl
@[simp] theorem State.clearError_pending (s : State) : s.clearError.pending = s.pending := rfl
@[simp] theorem State.clearError_win (s : State) : s.clearError.win = s.win := rfl
@[simp] theorem State.clearError_winWritten (s : State) : s.clearError.winWritten = s.winWritten := rfl
@[simp] theorem State.clearError_busy (s : State) : s.clearError.busy = s.busy := rfl
@[simp] theorem State.clearError_done (s : State) : s.clearError.done = s.done := rfl
@[simp] theorem State.clearError_ovf (s : State) : s.clearError.ovf = s.ovf := rfl
@[simp] theorem State.clearError_bin (s : State) : s.clearError.bin = s.bin := rfl
@[simp] theorem State.clearError_errcode (s : State) : s.clearError.errcode = 0 := rfl
@[simp] theorem State.clearError_convReq (s : State) : s.clearError.convReq = s.convReq := rfl
@[simp] theorem State.clearError_readData (s : State) : s.clearError.readData = s.readData := rfl
@[simp] theorem State.clearError_epoch (s : State) : s.clearError.epoch = s.epoch := rfl
@[simp] theorem State.clearError_agenda (s : State) : s.clearError.agenda = s.agenda := rfl

/-! ## writeWin -/

@[simp] theorem State.writeWin_cfg (s : State) (i : Fin 32) (v : Sample) : (s.writeWin i v).cfg = s.cfg := rfl
@[simp] theorem State.writeWin_ready (s : State) (i : Fin 32) (v : Sample) : (s.writeWin i v).ready = s.ready := rfl
@[simp] theorem State.writeWin_sampling (s : State) (i : Fin 32) (v : Sample) : (s.writeWin i v).sampling = s.sampling := rfl
@[simp] theorem State.writeWin_fill (s : State) (i : Fin 32) (v : Sample) : (s.writeWin i v).fill = s.fill := rfl
@[simp] theorem State.writeWin_pending (s : State) (i : Fin 32) (v : Sample) : (s.writeWin i v).pending = s.pending := rfl
@[simp] theorem State.writeWin_win (s : State) (i : Fin 32) (v : Sample) : (s.writeWin i v).win = s.win.set i v := rfl
@[simp] theorem State.writeWin_winWritten (s : State) (i : Fin 32) (v : Sample) : (s.writeWin i v).winWritten = s.winWritten.set i true := rfl
@[simp] theorem State.writeWin_busy (s : State) (i : Fin 32) (v : Sample) : (s.writeWin i v).busy = s.busy := rfl
@[simp] theorem State.writeWin_done (s : State) (i : Fin 32) (v : Sample) : (s.writeWin i v).done = s.done := rfl
@[simp] theorem State.writeWin_ovf (s : State) (i : Fin 32) (v : Sample) : (s.writeWin i v).ovf = s.ovf := rfl
@[simp] theorem State.writeWin_bin (s : State) (i : Fin 32) (v : Sample) : (s.writeWin i v).bin = s.bin := rfl
@[simp] theorem State.writeWin_errcode (s : State) (i : Fin 32) (v : Sample) : (s.writeWin i v).errcode = s.errcode := rfl
@[simp] theorem State.writeWin_convReq (s : State) (i : Fin 32) (v : Sample) : (s.writeWin i v).convReq = s.convReq := rfl
@[simp] theorem State.writeWin_readData (s : State) (i : Fin 32) (v : Sample) : (s.writeWin i v).readData = s.readData := rfl
@[simp] theorem State.writeWin_epoch (s : State) (i : Fin 32) (v : Sample) : (s.writeWin i v).epoch = s.epoch := rfl
@[simp] theorem State.writeWin_agenda (s : State) (i : Fin 32) (v : Sample) : (s.writeWin i v).agenda = s.agenda := rfl

/-! ## windowFull -/

@[simp] theorem State.windowFull_cfg (s : State) : s.windowFull.cfg = s.cfg := rfl
@[simp] theorem State.windowFull_ready (s : State) : s.windowFull.ready = true := rfl
@[simp] theorem State.windowFull_sampling (s : State) : s.windowFull.sampling = false := rfl
@[simp] theorem State.windowFull_fill (s : State) : s.windowFull.fill = 0 := rfl
@[simp] theorem State.windowFull_pending (s : State) : s.windowFull.pending = s.pending := rfl
@[simp] theorem State.windowFull_win (s : State) : s.windowFull.win = s.win := rfl
@[simp] theorem State.windowFull_winWritten (s : State) : s.windowFull.winWritten = s.winWritten := rfl
@[simp] theorem State.windowFull_busy (s : State) : s.windowFull.busy = s.busy := rfl
@[simp] theorem State.windowFull_done (s : State) : s.windowFull.done = s.done := rfl
@[simp] theorem State.windowFull_ovf (s : State) : s.windowFull.ovf = s.ovf := rfl
@[simp] theorem State.windowFull_bin (s : State) : s.windowFull.bin = s.bin := rfl
@[simp] theorem State.windowFull_errcode (s : State) : s.windowFull.errcode = s.errcode := rfl
@[simp] theorem State.windowFull_convReq (s : State) : s.windowFull.convReq = s.convReq := rfl
@[simp] theorem State.windowFull_readData (s : State) : s.windowFull.readData = s.readData := rfl
@[simp] theorem State.windowFull_epoch (s : State) : s.windowFull.epoch = s.epoch := rfl
@[simp] theorem State.windowFull_agenda (s : State) : s.windowFull.agenda = s.agenda := rfl

/-! ## publish -/

@[simp] theorem State.publish_cfg (s : State) : s.publish.cfg = s.cfg := by simp only [State.publish]
@[simp] theorem State.publish_ready (s : State) : s.publish.ready = s.ready := by simp only [State.publish]
@[simp] theorem State.publish_sampling (s : State) : s.publish.sampling = s.sampling := by simp only [State.publish]
@[simp] theorem State.publish_fill (s : State) : s.publish.fill = s.fill := by simp only [State.publish]
@[simp] theorem State.publish_pending (s : State) : s.publish.pending = s.pending := by simp only [State.publish]
@[simp] theorem State.publish_win (s : State) : s.publish.win = s.win := by simp only [State.publish]
@[simp] theorem State.publish_winWritten (s : State) : s.publish.winWritten = s.winWritten := by simp only [State.publish]
@[simp] theorem State.publish_busy (s : State) : s.publish.busy = false := by simp only [State.publish]
@[simp] theorem State.publish_done (s : State) : s.publish.done = true := by simp only [State.publish]
@[simp] theorem State.publish_ovf (s : State) : s.publish.ovf = runOverflow s.cfg s.window := by simp only [State.publish]
@[simp] theorem State.publish_bin (s : State) : s.publish.bin = Vector.ofFn fun u : Fin 16 => BitVec.ofNat 32 (magnitude s.cfg s.window u.val) := by simp only [State.publish]
@[simp] theorem State.publish_errcode (s : State) : s.publish.errcode = s.errcode := by simp only [State.publish]
@[simp] theorem State.publish_convReq (s : State) : s.publish.convReq = s.convReq := by simp only [State.publish]
@[simp] theorem State.publish_readData (s : State) : s.publish.readData = s.readData := by simp only [State.publish]
@[simp] theorem State.publish_epoch (s : State) : s.publish.epoch = s.epoch := by simp only [State.publish]
@[simp] theorem State.publish_agenda (s : State) : s.publish.agenda = s.agenda := by simp only [State.publish]

/-! ## offer -/

@[simp] theorem State.offer_cfg (s : State) (e : Encoding) : (s.offer e).cfg = s.cfg := rfl
@[simp] theorem State.offer_ready (s : State) (e : Encoding) : (s.offer e).ready = s.ready := rfl
@[simp] theorem State.offer_sampling (s : State) (e : Encoding) : (s.offer e).sampling = s.sampling := rfl
@[simp] theorem State.offer_fill (s : State) (e : Encoding) : (s.offer e).fill = s.fill := rfl
@[simp] theorem State.offer_pending (s : State) (e : Encoding) : (s.offer e).pending = s.pending := rfl
@[simp] theorem State.offer_win (s : State) (e : Encoding) : (s.offer e).win = s.win := rfl
@[simp] theorem State.offer_winWritten (s : State) (e : Encoding) : (s.offer e).winWritten = s.winWritten := rfl
@[simp] theorem State.offer_busy (s : State) (e : Encoding) : (s.offer e).busy = s.busy := rfl
@[simp] theorem State.offer_done (s : State) (e : Encoding) : (s.offer e).done = s.done := rfl
@[simp] theorem State.offer_ovf (s : State) (e : Encoding) : (s.offer e).ovf = s.ovf := rfl
@[simp] theorem State.offer_bin (s : State) (e : Encoding) : (s.offer e).bin = s.bin := rfl
@[simp] theorem State.offer_errcode (s : State) (e : Encoding) : (s.offer e).errcode = s.errcode := rfl
@[simp] theorem State.offer_convReq (s : State) (e : Encoding) : (s.offer e).convReq = s.convReq := rfl
@[simp] theorem State.offer_readData (s : State) (e : Encoding) : (s.offer e).readData = s.readData := rfl
@[simp] theorem State.offer_epoch (s : State) (e : Encoding) : (s.offer e).epoch = s.epoch := rfl
@[simp] theorem State.offer_agenda (s : State) (e : Encoding) : (s.offer e).agenda = Cycle.of e :: s.agenda := rfl

/-! ## enqueue -/

@[simp] theorem State.enqueue_cfg (s : State) (ls : List Line) : (s.enqueue ls).cfg = s.cfg := rfl
@[simp] theorem State.enqueue_ready (s : State) (ls : List Line) : (s.enqueue ls).ready = s.ready := rfl
@[simp] theorem State.enqueue_sampling (s : State) (ls : List Line) : (s.enqueue ls).sampling = s.sampling := rfl
@[simp] theorem State.enqueue_fill (s : State) (ls : List Line) : (s.enqueue ls).fill = s.fill := rfl
@[simp] theorem State.enqueue_pending (s : State) (ls : List Line) : (s.enqueue ls).pending = s.pending := rfl
@[simp] theorem State.enqueue_win (s : State) (ls : List Line) : (s.enqueue ls).win = s.win := rfl
@[simp] theorem State.enqueue_winWritten (s : State) (ls : List Line) : (s.enqueue ls).winWritten = s.winWritten := rfl
@[simp] theorem State.enqueue_busy (s : State) (ls : List Line) : (s.enqueue ls).busy = s.busy := rfl
@[simp] theorem State.enqueue_done (s : State) (ls : List Line) : (s.enqueue ls).done = s.done := rfl
@[simp] theorem State.enqueue_ovf (s : State) (ls : List Line) : (s.enqueue ls).ovf = s.ovf := rfl
@[simp] theorem State.enqueue_bin (s : State) (ls : List Line) : (s.enqueue ls).bin = s.bin := rfl
@[simp] theorem State.enqueue_errcode (s : State) (ls : List Line) : (s.enqueue ls).errcode = s.errcode := rfl
@[simp] theorem State.enqueue_convReq (s : State) (ls : List Line) : (s.enqueue ls).convReq = s.convReq := rfl
@[simp] theorem State.enqueue_readData (s : State) (ls : List Line) : (s.enqueue ls).readData = s.readData := rfl
@[simp] theorem State.enqueue_epoch (s : State) (ls : List Line) : (s.enqueue ls).epoch = s.epoch := rfl
@[simp] theorem State.enqueue_agenda (s : State) (ls : List Line) : (s.enqueue ls).agenda = s.agenda ++ ls.map fun l => Cycle.of l.encoding := rfl

/-! ## raise -/

@[simp] theorem State.raise_cfg (s : State) (e : Err) : (s.raise e).cfg = s.cfg := by unfold State.raise; split <;> rfl
@[simp] theorem State.raise_ready (s : State) (e : Err) : (s.raise e).ready = s.ready := by unfold State.raise; split <;> rfl
@[simp] theorem State.raise_sampling (s : State) (e : Err) : (s.raise e).sampling = s.sampling := by unfold State.raise; split <;> rfl
@[simp] theorem State.raise_fill (s : State) (e : Err) : (s.raise e).fill = s.fill := by unfold State.raise; split <;> rfl
@[simp] theorem State.raise_pending (s : State) (e : Err) : (s.raise e).pending = s.pending := by unfold State.raise; split <;> rfl
@[simp] theorem State.raise_win (s : State) (e : Err) : (s.raise e).win = s.win := by unfold State.raise; split <;> rfl
@[simp] theorem State.raise_winWritten (s : State) (e : Err) : (s.raise e).winWritten = s.winWritten := by unfold State.raise; split <;> rfl
@[simp] theorem State.raise_busy (s : State) (e : Err) : (s.raise e).busy = s.busy := by unfold State.raise; split <;> rfl
@[simp] theorem State.raise_done (s : State) (e : Err) : (s.raise e).done = s.done := by unfold State.raise; split <;> rfl
@[simp] theorem State.raise_ovf (s : State) (e : Err) : (s.raise e).ovf = s.ovf := by unfold State.raise; split <;> rfl
@[simp] theorem State.raise_bin (s : State) (e : Err) : (s.raise e).bin = s.bin := by unfold State.raise; split <;> rfl
theorem State.raise_errcode (s : State) (e : Err) :
    (s.raise e).errcode = if s.errcode = 0 then e.code else s.errcode := by unfold State.raise; split <;> simp_all
@[simp] theorem State.raise_convReq (s : State) (e : Err) : (s.raise e).convReq = s.convReq := by unfold State.raise; split <;> rfl
@[simp] theorem State.raise_readData (s : State) (e : Err) : (s.raise e).readData = s.readData := by unfold State.raise; split <;> rfl
@[simp] theorem State.raise_epoch (s : State) (e : Err) : (s.raise e).epoch = s.epoch := by unfold State.raise; split <;> rfl
@[simp] theorem State.raise_agenda (s : State) (e : Err) : (s.raise e).agenda = s.agenda := by unfold State.raise; split <;> rfl

end Sys2Proof.Machine
end

