-- ==== Sys2Proof/Laws/Window.lean ====
section
/-! SUPPORT. Reading the window after writing it, and the window's canonical form, kept by every operation that writes it
(spec/10_state.md R28). -/

namespace Sys2Proof.Machine

open Sys2Proof.Safety

theorem Vector.get_set_ne {α : Type} {n : Nat} (v : Vector α n) {i j : Fin n} (a : α) (h : j ≠ i) :
    (v.set i a).get j = v.get j := by
  have : i.val ≠ j.val := fun e => h (Fin.ext e.symm)
  simp [Vector.get_eq_getElem, Vector.getElem_set_ne _ _ this]

theorem Vector.get_set_eq {α : Type} {n : Nat} (v : Vector α n) (i : Fin n) (a : α) : (v.set i a).get i = a := by
  simp [Vector.get_eq_getElem]

@[simp] theorem Vector.get_replicate_eq {α : Type} {n : Nat} (a : α) (i : Fin n) : (Vector.replicate n a).get i = a := by
  simp [Vector.get_eq_getElem]

@[simp] theorem Vector.get_ofFn_eq {α : Type} {n : Nat} (f : Fin n → α) (i : Fin n) : (Vector.ofFn f).get i = f i := by
  simp [Vector.get_eq_getElem]

/-! ## Reading -/

theorem State.readWin_of_written {s : State} {i : Fin 32} (h : s.winWritten.get i = true) : s.readWin i = s.win.get i := by
  simp [State.readWin, h]

theorem State.readWin_writeWin (s : State) (i : Fin 32) (v : Sample) : (s.writeWin i v).readWin i = v := by
  simp [State.readWin, Vector.get_set_eq]

theorem State.readWin_writeWin_ne (s : State) {i j : Fin 32} (v : Sample) (h : j ≠ i) :
    (s.writeWin i v).readWin j = s.readWin j := by
  simp [State.readWin, Vector.get_set_ne _ _ h]

/-- What a read of the window depends on. -/
theorem State.readWin_congr {s t : State} (hw : t.win = s.win) (hb : t.winWritten = s.winWritten)
    (he : t.epoch = s.epoch) : t.readWin = s.readWin := by
  funext i
  simp [State.readWin, hw, hb, he]

/-- Once every slot is written, what the transform reads depends on WIN alone. -/
theorem State.window_congr {s t : State} (hw : t.win = s.win) (hb : t.winWritten = s.winWritten)
    (h : ∀ i, s.winWritten.get i = true) : t.window = s.window := by
  funext i
  simp [State.window, State.readWin, hw, hb, h i]

/-! ## The canonical form -/

theorem windowCanonical_resetWith (p : Params) : WindowCanonical (State.resetWith p) := by
  intro i _
  simp [State.resetWith]

theorem windowCanonical_writeWin {s : State} (h : WindowCanonical s) (i : Fin 32) (v : Sample) :
    WindowCanonical (s.writeWin i v) := by
  intro j hj
  by_cases e : j = i
  · subst e
    simp [Vector.get_set_eq] at hj
  · simp only [State.writeWin_winWritten, State.writeWin_win, Vector.get_set_ne _ _ e] at hj ⊢
    exact h j hj

end Sys2Proof.Machine
end

