-- ==== Sys2Proof/Laws/Ops.lean ====
section
/-! SUPPORT. What the shared operations do, said once: raising an error, the register words, and the 32-bit wrap. -/

namespace Sys2Proof.Machine

/-! ## Errors (spec/60_exceptions.md R220, R222) -/

theorem State.raise_of_clear {s : State} (h : s.errcode = 0) (e : Err) : s.raise e = { s with errcode := e.code } := by
  simp [State.raise, h]

theorem State.raise_of_recorded {s : State} (h : s.errcode ≠ 0) (e : Err) : s.raise e = s := by
  rw [State.raise, if_neg h]

/-- Everything `raise` can do. -/
theorem State.raise_eq (s : State) (e : Err) :
    s.raise e = { s with errcode := if s.errcode = 0 then e.code else s.errcode } := by
  unfold State.raise
  split <;> rfl

theorem Err.code_ne_zero (e : Err) : e.code ≠ 0 := by cases e <;> decide

theorem Err.code_le_five (e : Err) : e.code.toNat ≤ 5 := by cases e <;> decide

/-! ## STATUS (spec/10_state.md R40) -/

/-- The bits of a status word by the six flags. -/
theorem statusBits (o d b p a r : Bool) (j : Nat) :
    (0#10 ++ (BitVec.ofBool o ++ (BitVec.ofBool d ++ (BitVec.ofBool b ++ (BitVec.ofBool p ++ (BitVec.ofBool a ++
      BitVec.ofBool r))))) : BitVec 16).getLsbD j = ([r, a, p, b, d, o].getD j false) := by
  cases o <;> cases d <;> cases b <;> cases p <;> cases a <;> cases r <;>
    (rcases Nat.lt_or_ge j 16 with h | h
     · revert j; decide
     · rw [BitVec.getLsbD_of_ge _ _ h]
       match j, h with
       | j + 6, _ => rfl)

theorem State.statusWord_getLsbD (s : State) (j : Nat) :
    s.statusWord.getLsbD j = ([s.ready, s.sampling, s.pending, s.busy, s.done, s.ovf].getD j false) :=
  statusBits _ _ _ _ _ _ j

/-! ## The 32-bit wrap (spec/00_scope.md R12) -/

theorem wrap32_range (v : Int) : -2147483648 ≤ wrap32 v ∧ wrap32 v ≤ 2147483647 := by
  unfold wrap32
  have h1 := Int.le_bmod (x := v) (m := 4294967296) (by decide)
  have h2 := Int.bmod_lt (x := v) (m := 4294967296) (by decide)
  omega

theorem wrap32_of_inside {v : Int} (h : outside32 v = false) : wrap32 v = v := by
  simp only [outside32, Bool.or_eq_false_iff, decide_eq_false_iff_not] at h
  unfold wrap32
  rw [Int.bmod_def]
  omega

theorem wrap32_mod (v : Int) : wrap32 v % 4294967296 = v % 4294967296 := by
  unfold wrap32
  rw [Int.bmod_def]
  split <;> omega

theorem reAcc_range (p : Params) (x : Window) (u k : Nat) :
    -2147483648 ≤ reAcc p x u k ∧ reAcc p x u k ≤ 2147483647 := by
  cases k with
  | zero => simp [reAcc]
  | succ k => exact wrap32_range _

theorem imAcc_range (p : Params) (x : Window) (u k : Nat) :
    -2147483648 ≤ imAcc p x u k ∧ imAcc p x u k ≤ 2147483647 := by
  cases k with
  | zero => simp [imAcc]
  | succ k => exact wrap32_range _

theorem scaleDiv_pos (p : Params) : 1 ≤ scaleDiv p := by
  unfold scaleDiv
  omega

end Sys2Proof.Machine
end

