-- ==== Sys2Proof/Laws/Exec.lean ====
section
/-! SUPPORT. Inversion: what an operation can do if it answers a next state, and what a step can do. -/

namespace Sys2Proof.Machine

open Sys2Proof.Safety

theorem next?_eq_some {o : Host.Outcome State Fault Refusal} {t : State} : next? o = some t ↔ o = .next t := by
  cases o <;> simp [next?]

/-- A run of one operation and then others. -/
theorem runOps_cons {i : Instr} {is : List Instr} {s t : State} :
    runOps (i :: is) s = some t ↔ ∃ m, exec i s = .next m ∧ runOps is m = some t := by
  simp only [runOps]
  constructor
  · intro h
    split at h
    · exact ⟨_, next?_eq_some.mp ‹_›, h⟩
    · cases h
  · rintro ⟨m, hm, ht⟩
    simp [next?, hm, ht]

/-- Everything a read can do. -/
theorem exec_read_next {i : Instr} (hr : isRead i = true) {s t : State} (h : exec i s = .next t) :
    ∃ v, t = s.respond v := by
  cases i <;> first | (cases hr; done) | (cases h; exact ⟨_, rfl⟩)

/-- Everything TICK can do (spec/40_acquisition.md R100). -/
theorem execTick_next {s t : State} (h : execTick s = .next t) :
    ((s.sampling = false ∨ s.pending = true) ∧ t = s.begin) ∨
    (s.sampling = true ∧ s.pending = false ∧ t = { s.begin.emitConvReq with pending := true }) := by
  unfold execTick at h
  split at h
  · cases h; exact .inl ⟨.inl ‹_›, rfl⟩
  · split at h
    · cases h; exact .inl ⟨.inr ‹_›, rfl⟩
    · cases h; exact .inr ⟨by simp_all, by simp_all, rfl⟩

/-- Everything CONV_DONE can do (R102, R104). -/
theorem execConvDone_next {raw : RawReading} {s t : State} (h : execConvDone raw s = .next t) :
    (s.pending = false ∧ t = s.begin) ∨
    (s.pending = true ∧ s.fill = 31 ∧
      t = State.windowFull { s.begin.writeWin s.fill.toFin (sample s.cfg raw) with pending := false }) ∨
    (s.pending = true ∧ s.fill ≠ 31 ∧
      t = { s.begin.writeWin s.fill.toFin (sample s.cfg raw) with pending := false, fill := s.fill + 1 }) := by
  unfold execConvDone at h
  split at h
  · cases h; exact .inl ⟨‹_›, rfl⟩
  · simp only at h
    split at h
    · cases h; exact .inr (.inl ⟨by simp_all, ‹_›, rfl⟩)
    · cases h; exact .inr (.inr ⟨by simp_all, ‹_›, rfl⟩)

/-- Everything START can do (spec/41_transform.md R140). -/
theorem execCmdStart_next {s t : State} (h : execCmdStart s = .next t) :
    (s.busy = true ∧ t = s.begin.raise .startBusy) ∨
    (s.busy = false ∧ s.ready = false ∧ t = s.begin.raise .startNotReady) ∨
    (s.busy = false ∧ s.ready = true ∧ t = { s.begin with busy := true, done := false, ovf := false }) := by
  unfold execCmdStart at h
  split at h
  · cases h; exact .inl ⟨‹_›, rfl⟩
  · split at h
    · cases h; exact .inr (.inl ⟨by simp_all, ‹_›, rfl⟩)
    · cases h; exact .inr (.inr ⟨by simp_all, by simp_all, rfl⟩)

/-- Everything ARM can do (spec/42_host_interface.md R181). -/
theorem execCmdArm_next {s t : State} (h : execCmdArm s = .next t) :
    (s.busy = true ∧ t = s.begin.raise .armBusy) ∨
    (s.busy = false ∧ s.ready = false ∧ t = s.begin.raise .armNotReady) ∨
    (s.busy = false ∧ s.ready = true ∧ t = { s.begin with ready := false, fill := 0, sampling := true }) := by
  unfold execCmdArm at h
  split at h
  · cases h; exact .inl ⟨‹_›, rfl⟩
  · split at h
    · cases h; exact .inr (.inl ⟨by simp_all, ‹_›, rfl⟩)
    · cases h; exact .inr (.inr ⟨by simp_all, by simp_all, rfl⟩)

/-- Everything XFORM_DONE can do (R143). -/
theorem execXformDone_next {s t : State} (h : execXformDone s = .next t) :
    s.busy = true ∧ t = { s.publish with convReq := false, readData := none, epoch := s.epoch + 1 } := by
  unfold execXformDone at h
  split at h
  · cases h
  · cases h; exact ⟨by simp_all, rfl⟩

/-- Everything a step can do: nothing, or the operation fetched. -/
theorem step_next {s t : State} (h : step s = .next t) :
    (s.agenda = [] ∧ t = s.idle) ∨
    (∃ c rest, s.agenda = c :: rest ∧ c.fetch = .idle ∧ t = { s.idle with agenda := rest }) ∨
    (∃ c rest i left, s.agenda = c :: rest ∧ c.fetch = .op i left ∧
      exec i { s with agenda := left.before rest } = .next t) := by
  unfold step at h
  split at h
  · cases h; exact .inl ⟨‹_›, rfl⟩
  · split at h
    · exact .inr (.inr ⟨_, _, _, _, ‹_›, ‹_›, h⟩)
    · cases h; exact .inr (.inl ⟨_, _, ‹_›, ‹_›, rfl⟩)
    · cases h

end Sys2Proof.Machine
end

