-- ==== Sys2Proof/Laws/PerInstr.lean ====
section
/-! SUPPORT. Per operation: the encoding of a well-formed operation matches its row of the opcode map (spec/30_encoding.md
R82). -/

namespace Sys2Proof.Laws.RowMatch

open Sys2Proof.Safety

/-- A well-formed operation's encoding matches its row; XFORM_DONE has no row and no encoding. -/
def Statement (i : Instr) : Prop :=
  i.wf = true →
    match encode i with
    | .bus w => ∃ r, busRow i = some r ∧ r.matches w
    | .evt v => ∃ r, evtRow i = some r ∧ r.matches v
    | .internal => busRow i = none ∧ evtRow i = none

theorem cmdNop : Statement .cmdNop := fun _ => ⟨_, rfl, by simp only [BusRow.matches]; decide⟩
theorem cmdArm : Statement .cmdArm := fun _ => ⟨_, rfl, by simp only [BusRow.matches]; decide⟩
theorem cmdStart : Statement .cmdStart := fun _ => ⟨_, rfl, by simp only [BusRow.matches]; decide⟩
theorem cmdClrerr : Statement .cmdClrerr := fun _ => ⟨_, rfl, by simp only [BusRow.matches]; decide⟩

/-- A mask that keeps no bit below k, on two descriptors that agree from bit k on. -/
theorem and_mask_eq {w w' m : BusWord} {k : Nat} (hm : ∀ i, i < k → m.getLsbD i = false)
    (h : ∀ i, k ≤ i → w.getLsbD i = w'.getLsbD i) : w &&& m = w' &&& m := by
  apply BitVec.eq_of_getLsbD_eq
  intro i _
  rcases Nat.lt_or_ge i k with hk | hk
  · simp only [BitVec.getLsbD_and, hm i hk, Bool.and_false]
  · simp only [BitVec.getLsbD_and, h i hk]

theorem cmdRsvd (d : BusData) : Statement (.cmdRsvd d) := fun _ =>
  ⟨_, rfl, (and_mask_eq (w' := busDescriptor true 0 0) (k := 16) (by decide)
    (fun i hi => by simp [getLsbD_busDescriptor, show ¬ i < 16 by omega])).trans (by decide)⟩

theorem wrOther (a : Offset) (d : BusData) : Statement (.wrOther a d) := fun _ =>
  ⟨_, rfl, (and_mask_eq (w' := busDescriptor true 0 0) (k := 24) (by decide)
    (fun i hi => by simp [getLsbD_busDescriptor, show ¬ i < 16 by omega, show ¬ i < 24 by omega])).trans (by decide)⟩

theorem rdCmd : Statement .rdCmd := fun _ => ⟨_, rfl, by simp only [BusRow.matches]; decide⟩
theorem rdStatus : Statement .rdStatus := fun _ => ⟨_, rfl, by simp only [BusRow.matches]; decide⟩
theorem rdFill : Statement .rdFill := fun _ => ⟨_, rfl, by simp only [BusRow.matches]; decide⟩
theorem rdErr : Statement .rdErr := fun _ => ⟨_, rfl, by simp only [BusRow.matches]; decide⟩
theorem rdCalofs : Statement .rdCalofs := fun _ => ⟨_, rfl, by simp only [BusRow.matches]; decide⟩
theorem rdWin (i : Fin 32) : Statement (.rdWin i) := fun _ =>
  ⟨_, rfl, by simp only [BusRow.matches]; revert i; decide⟩
theorem rdBinlo (u : Fin 16) : Statement (.rdBinlo u) := fun _ =>
  ⟨_, rfl, by simp only [BusRow.matches]; revert u; decide⟩
theorem rdBinhi (u : Fin 16) : Statement (.rdBinhi u) := fun _ =>
  ⟨_, rfl, by simp only [BusRow.matches]; revert u; decide⟩
theorem rdBinc (u : Fin 16) : Statement (.rdBinc u) := fun _ =>
  ⟨_, rfl, by simp only [BusRow.matches]; revert u; decide⟩

theorem rdRsvd (a : Offset) : Statement (.rdRsvd a) := fun _ =>
  ⟨_, rfl, (and_mask_eq (w' := busDescriptor false 0 0) (k := 24) (by decide)
    (fun i hi => by simp [getLsbD_busDescriptor, show ¬ i < 16 by omega, show ¬ i < 24 by omega])).trans (by decide)⟩

theorem reset : Statement .reset := fun _ => ⟨_, rfl, by simp only [EvtRow.matches]; decide⟩

theorem convDone (raw : RawReading) : Statement (.convDone raw) := fun _ => by
  refine ⟨_, rfl, ?_⟩
  apply BitVec.eq_of_getLsbD_eq
  intro i hi
  rcases Nat.lt_or_ge i 10 with h | h
  · have hm : ∀ j : Fin 10, (0x1400 : EvtWord).getLsbD j = false ∧ (0x0400 : EvtWord).getLsbD j = false := by decide
    simp only [BitVec.getLsbD_and, (hm ⟨i, h⟩).1, (hm ⟨i, h⟩).2, Bool.and_false]
  · have : i = 10 ∨ i = 11 ∨ i = 12 := by omega
    rw [BitVec.getLsbD_and, getLsbD_evtVector]
    rcases this with rfl | rfl | rfl <;> rfl

theorem tick : Statement .tick := fun _ => ⟨_, rfl, by simp only [EvtRow.matches]; decide⟩
theorem xformDone : Statement .xformDone := fun _ => ⟨rfl, rfl⟩

end Sys2Proof.Laws.RowMatch
end

