-- ==== Sys2Proof/Laws/Runs.lean ====
section
/-! SUPPORT. Runs of operations: joining runs, the conversions a run accepts, and a run that fills the window. -/

namespace Sys2Proof.Machine

open Sys2Proof.Safety

theorem runOps_append {is js : List Instr} {s t : State} :
    runOps (is ++ js) s = some t ↔ ∃ m, runOps is s = some m ∧ runOps js m = some t := by
  induction is generalizing s with
  | nil => simp [runOps]
  | cons i is ih =>
    rw [List.cons_append, runOps_cons]
    constructor
    · rintro ⟨m, hm, h⟩
      obtain ⟨k, hk, ht⟩ := ih.mp h
      exact ⟨k, runOps_cons.mpr ⟨m, hm, hk⟩, ht⟩
    · rintro ⟨k, hk, ht⟩
      obtain ⟨m, hm, h⟩ := runOps_cons.mp hk
      exact ⟨m, hm, ih.mpr ⟨k, h, ht⟩⟩

/-- A CONV_DONE with a conversion pending is accepted. -/
theorem acceptedRaws_convDone {raw : RawReading} {is : List Instr} {s m : State} (h : exec (.convDone raw) s = .next m)
    (hp : s.pending = true) : acceptedRaws (.convDone raw :: is) s = raw :: acceptedRaws is m := by
  simp [acceptedRaws, next?, h, hp]

/-- Every other operation accepts no conversion. -/
theorem acceptedRaws_other {i : Instr} {is : List Instr} {s m : State} (h : exec i s = .next m)
    (hn : ∀ raw, i = .convDone raw → s.pending = false) : acceptedRaws (i :: is) s = acceptedRaws is m := by
  simp only [acceptedRaws, next?, h]
  split
  · rename_i raw
    simp [hn raw rfl]
  · rfl

theorem acceptedRaws_append {is js : List Instr} {s m : State} (h : runOps is s = some m) :
    acceptedRaws (is ++ js) s = acceptedRaws is s ++ acceptedRaws js m := by
  induction is generalizing s with
  | nil => cases h; rfl
  | cons i is ih =>
    obtain ⟨k, hk, hm⟩ := runOps_cons.mp h
    simp only [List.cons_append, acceptedRaws, next?, hk, ih hm, List.append_assoc]

/-- n times a TICK and the conversion it requests. -/
def samples (raw : RawReading) (n : Nat) : List Instr := (List.replicate n [.tick, .convDone raw]).flatten

/-- n samples, short of the last slot, advance FILL by n and are all accepted. -/
theorem runOps_samples (raw : RawReading) (n : Nat) (s : State) (hs : s.sampling = true) (hp : s.pending = false)
    (hf : s.fill.toNat + n < 32) :
    ∃ t, runOps (samples raw n) s = some t ∧ acceptedRaws (samples raw n) s = List.replicate n raw ∧
      t.sampling = true ∧ t.pending = false ∧ t.fill.toNat = s.fill.toNat + n := by
  induction n generalizing s with
  | zero => exact ⟨s, rfl, rfl, hs, hp, rfl⟩
  | succ n ih =>
    let a : State := { s.begin.emitConvReq with pending := true }
    have ha : exec .tick s = .next a := by simp [exec, execTick, hs, hp, a]
    have hne : s.fill ≠ 31 := fun h => by
      have : s.fill.toNat = 31 := by rw [h]; rfl
      omega
    let b : State := { a.begin.writeWin a.fill.toFin (sample a.cfg raw) with pending := false, fill := s.fill + 1 }
    have hb : exec (.convDone raw) a = .next b := by
      change execConvDone raw a = .next b
      unfold execConvDone
      rw [if_neg (by simp [a])]
      exact if_neg hne
    have hbf : b.fill.toNat = s.fill.toNat + 1 := by
      change (s.fill + 1).toNat = _
      rw [BitVec.toNat_add, show (1 : BitVec 5).toNat = 1 from rfl]
      omega
    obtain ⟨t, h1, h2, h3, h4, h5⟩ := ih b (by simp [b, a, hs]) rfl (by omega)
    have hcons : samples raw (n + 1) = .tick :: .convDone raw :: samples raw n := rfl
    refine ⟨t, ?_, ?_, h3, h4, by omega⟩
    · rw [hcons]
      exact runOps_cons.mpr ⟨a, ha, runOps_cons.mpr ⟨b, hb, h1⟩⟩
    · rw [hcons, acceptedRaws_other ha (fun r e => by cases e), acceptedRaws_convDone hb rfl, h2]
      rfl

end Sys2Proof.Machine
end

