-- ==== Sys2Proof/Laws/Script.lean ====
section
/-! SUPPORT. What a poll can do (spec/30_encoding.md R80): one read, and the loop. -/

namespace Sys2Proof.Machine

theorem andThen_next {α β : Type} {o : Host.Outcome α Fault Refusal} {f : α → Host.Outcome β Fault Refusal} {b : β} :
    andThen o f = .next b ↔ ∃ a, o = .next a ∧ f a = .next b := by
  cases o <;> simp [andThen]

/-- The polled line as the very next input is a read of STATUS, and leaves the inputs to come as they were. -/
theorem step_pollLine (s : State) : step (s.offer pollLine.encoding) = .next (s.respond s.statusWord) := rfl

/-- One read of a poll always completes: it changes nothing but the outputs, and stops exactly at a value that passes. -/
theorem Poll.read_eq (p : Poll) (s : State) :
    p.read s = .next
      { state := s.respond s.statusWord, value := if p.stops s.statusWord then some s.statusWord else none } := by
  rw [Poll.read, step_pollLine]
  simp [andThen, State.respond, Option.filter]

/-- A poll whose first read passes ends there. -/
theorem Poll.run_of_stops {p : Poll} {s : State} (h : p.stops s.statusWord = true) (waits : List Nat) :
    p.run waits s = .next { state := s.respond s.statusWord, value := some s.statusWord } := by
  cases waits <;> simp [Poll.run, Poll.read_eq, andThen, h]

/-- A poll whose first read does not pass lets the other agents go on, and reads again. -/
theorem Poll.run_of_not_stops {p : Poll} {s : State} (h : p.stops s.statusWord = false) (k : Nat) (waits : List Nat) :
    p.run (k :: waits) s = andThen (stepMany k (s.respond s.statusWord)) (p.run waits) := by
  simp [Poll.run, Poll.read_eq, andThen, h]

/-- A poll that has stopped returned a value that passes, and that value is the STATUS of the state it stopped in. -/
theorem Poll.run_stopped {p : Poll} {waits : List Nat} {s t : State} {v : BusData}
    (h : p.run waits s = .next { state := t, value := some v }) :
    p.stops v = true ∧ t.readData = some v ∧ t.statusWord = v := by
  induction waits generalizing s with
  | nil =>
    rw [Poll.run, Poll.read_eq] at h
    cases hs : p.stops s.statusWord
    · simp [hs] at h
    · simp only [hs, if_true, Host.Outcome.next.injEq, Polled.mk.injEq, Option.some.injEq] at h
      obtain ⟨rfl, rfl⟩ := h
      exact ⟨hs, rfl, rfl⟩
  | cons k waits ih =>
    cases hs : p.stops s.statusWord
    · rw [Poll.run_of_not_stops hs, andThen_next] at h
      obtain ⟨u, _, hu⟩ := h
      exact ih hu
    · rw [Poll.run_of_stops hs] at h
      simp only [Host.Outcome.next.injEq, Polled.mk.injEq, Option.some.injEq] at h
      obtain ⟨rfl, rfl⟩ := h
      exact ⟨hs, rfl, rfl⟩

/-- A poll that has not stopped last read a value that does not pass. -/
theorem Poll.run_polling {p : Poll} {waits : List Nat} {s t : State}
    (h : p.run waits s = .next { state := t, value := none }) :
    p.stops t.statusWord = false ∧ t.readData = some t.statusWord := by
  induction waits generalizing s with
  | nil =>
    rw [Poll.run, Poll.read_eq] at h
    cases hs : p.stops s.statusWord
    · simp only [hs, Host.Outcome.next.injEq, Polled.mk.injEq] at h
      obtain ⟨rfl, _⟩ := h
      exact ⟨hs, rfl⟩
    · simp [hs] at h
  | cons k waits ih =>
    cases hs : p.stops s.statusWord
    · rw [Poll.run_of_not_stops hs, andThen_next] at h
      obtain ⟨u, _, hu⟩ := h
      exact ih hu
    · rw [Poll.run_of_stops hs] at h
      simp at h

end Sys2Proof.Machine
end

