-- ==== Sys2Proof/Tests/Slice0.lean ====
section
/-! SUPPORT. Tests of the model: words written out from spec/30_encoding.md, ill-formed terms that are refused, single steps
on the vectors of spec/95_test_vectors.md, and one witness for the hypotheses of every obligation that has some. -/

namespace Sys2Proof.Tests

-- one theorem after another, so that the kernel checks of the tests do not pile up on threads
set_option Elab.async false

open Sys2Proof.Machine Sys2Proof.Safety

/-! ## Small states -/

/-- T_REF of spec/95_test_vectors.md. -/
def tRef : Vector Int 32 :=
  #v[0, 25, 49, 71, 90, 106, 117, 125, 127, 125, 117, 106, 90, 71, 49, 25,
     0, -25, -49, -71, -90, -106, -117, -125, -127, -125, -117, -106, -90, -71, -49, -25]

/-- A configuration with CAL_OFFSET = 512. -/
def params (table : Vector Int 32) (divPred : Fin 2147483647) : Params :=
  { calOffset := 512, sineTable := table.map (BitVec.ofInt 16), scaleDivPred := divPred, base := 0x200 }

/-- The reference parameters: T_REF and SCALE_DIV = 32768. -/
def refParams : Params := params tRef 32767

/-- STATUS 0x0002, no slot written. -/
def collecting : State := State.resetWith refParams

/-- STATUS 0x0006 with the slots below n written. -/
def inFlight (n : BitVec 5) : State :=
  { collecting with pending := true, fill := n, winWritten := Vector.ofFn fun i => decide (i.val < n.toNat) }

/-- STATUS 0x0001 over a window. -/
def fullOf (p : Params) (x : Vector Int 32) : State :=
  { State.resetWith p with
    ready := true
    sampling := false
    win := x.map (BitVec.ofInt 16)
    winWritten := Vector.replicate 32 true }

/-- STATUS 0x0001 over a window of zeros. -/
def full : State := fullOf refParams (Vector.replicate 32 0)

/-- STATUS 0x0009 over the same window. -/
def running : State := { full with busy := true }

/-- STATUS 0x0031 (spec/95_test_vectors.md TV-X0a). -/
def finished : State := { full with done := true, ovf := true }

/-- One field of the state an operation leads to. -/
def after {α : Type} (i : Instr) (s : State) (f : State → α) : Option α := (next? (exec i s)).map f

/-! ## Decoding: words written out from R71 to R73 and R82 -/

theorem test_decode_commands :
    decodeBus 0b10000000000000000000000000000000 = .ok .cmdNop ∧
    decodeBus 0b10000000000000000000000000000001 = .ok .cmdArm ∧
    decodeBus 0b10000000000000010000000000000010 = .ok .cmdStart ∧
    decodeBus 0b10000000000000000000000000000011 = .ok .cmdClrerr := by decide

theorem test_decode_reserved_and_other_writes :
    decodeBus 0x80000004 = .ok (.cmdRsvd 0x0004) ∧ decodeBus 0x80000011 = .ok (.cmdRsvd 0x0011) ∧
    decodeBus 0x80008002 = .ok (.cmdRsvd 0x8002) ∧ decodeBus 0x80401234 = .ok (.wrOther 0x40 0x1234) ∧
    decodeBus 0x80020001 = .ok (.wrOther 0x02 0x0001) := by decide

theorem test_decode_register_reads :
    decodeBus 0b00000000000000000000000000000000 = .ok .rdCmd ∧
    decodeBus 0b00000000000000110000000000000000 = .ok .rdStatus ∧
    decodeBus 0b00000000000001000000000000000000 = .ok .rdFill ∧
    decodeBus 0b00000000000001100000000000000000 = .ok .rdErr ∧
    decodeBus 0b00000000000010000000000000000000 = .ok .rdCalofs := by decide

theorem test_decode_window_and_bin_reads :
    decodeBus 0b00000000010010100000000000000000 = .ok (.rdWin 5) ∧
    decodeBus 0b00000000100011000000000000000000 = .ok (.rdBinlo 3) ∧
    decodeBus 0b00000000100011100000000000000000 = .ok (.rdBinhi 3) ∧
    decodeBus 0b00000000110001100000000000000000 = .ok (.rdBinc 3) ∧
    decodeBus 0x00F00000 = .ok (.rdRsvd 0xF0) ∧ decodeBus 0x000A0000 = .ok (.rdRsvd 0x0A) := by decide

theorem test_decode_vectors :
    decodeEvt 0b1000000000000 = [.reset] ∧ decodeEvt 0b0100000000000 = [.tick] ∧
    decodeEvt 0b0010111111000 = [.convDone 0x1F8] ∧ decodeEvt 0x0E47 = [.convDone 583, .tick] ∧
    decodeEvt 0x1C00 = [.reset] ∧ decodeEvt 0x03FF = [] := by decide

theorem test_decode_internal : decode .internal = .ok [.xformDone] := by decide

/-- TV-H16. -/
theorem test_decode_refuses_Z : decodeBus 0x01000000 = .error .notATransaction ∧
    decodeBus 0xC0000000 = .error .notATransaction := by decide

theorem test_decodeTableWord :
    decodeTableWord 32 0x80000001 = some .cmdArm ∧ decodeTableWord 32 0x00420000 = some (.rdWin 1) ∧
    decodeTableWord 16 0x0400 = some (.convDone 0) ∧ decodeTableWord 16 0x1000 = some .reset ∧
    decodeTableWord 16 0 = none ∧ decodeTableWord 32 0x40000000 = none ∧ decodeTableWord 16 0x2000 = none := by decide

/-! ## Ill-formed terms -/

theorem test_wf_refuses :
    (Instr.cmdRsvd 0x0002).wf = false ∧ (Instr.cmdRsvd 0x0000).wf = false ∧ (Instr.wrOther 0x01 0x0000).wf = false ∧
    (Instr.rdRsvd 0x08).wf = false ∧ (Instr.rdRsvd 0x40).wf = false := by decide

theorem test_wf_accepts :
    (Instr.cmdRsvd 0x0010).wf = true ∧ (Instr.cmdRsvd 0x0004).wf = true ∧ (Instr.wrOther 0x02 0x0000).wf = true ∧
    (Instr.rdRsvd 0x0A).wf = true ∧ (Instr.rdRsvd 0x3F).wf = true ∧ (Instr.rdRsvd 0xE0).wf = true := by decide

/-- R11. -/
theorem test_configure :
    configure 1024 tRef 32768 0 = none ∧ configure (-1) tRef 32768 0 = none ∧ configure 512 (tRef.set 0 32768) 32768 0 = none ∧
    configure 512 tRef 0 0 = none ∧ configure 512 tRef 2147483648 0 = none ∧ configure 512 tRef 32768 0x200 = some refParams := by
  decide +kernel

/-! ## Acquisition -/

/-- TV-A2. -/
theorem test_tick_accepted : after .tick collecting (fun t => (t.statusWord, t.convReq, t.fill, t.errcode)) =
    some (0x0006, true, 0, 0) := by decide

/-- TV-A3. -/
theorem test_tick_dropped : after .tick (inFlight 3) (fun t => (t.statusWord, t.convReq, t.fill, t.errcode)) =
    some (0x0006, false, 3, 0) := by decide +kernel

/-- TV-A1. -/
theorem test_samples :
    [512, 513, 504, 0, 1023].map (fun r => sample refParams r) = [0x0000, 0x0008, 0xFFC0, 0xF000, 0x0FF8] ∧
    sample { refParams with calOffset := 0 } 1023 = 0x1FF8 ∧
    sample { refParams with calOffset := 1023 } 0 = 0xE008 := by decide

/-- TV-A6. -/
theorem test_convDone_stores :
    after (.convDone 0x1F8) (inFlight 5) (fun t => (t.statusWord, t.fill, t.win.get 5, t.winWritten.get 5, t.win.get 4)) =
      some (0x0002, 6, 0xFFC0, true, 0) := by decide +kernel

/-- TV-A7. -/
theorem test_convDone_fills :
    after (.convDone 513) (inFlight 31) (fun t => (t.statusWord, t.fill, t.win.get 31, t.timerEn)) =
      some (0x0001, 0, 0x0008, false) := by decide +kernel

/-! ## Transform -/

/-- TV-X0a. -/
theorem test_start : after .cmdStart finished (fun t => (t.statusWord, t.errcode)) = some (0x0009, 0) := by decide +kernel

/-- TV-X0b. -/
theorem test_start_refused : after .cmdStart collecting (fun t => (t.statusWord, t.errcode)) = some (0x0002, 2) := by decide

/-- TV-X5: bin 4 holds 12, its neighbour 0. -/
theorem test_xformDone_tone :
    after .xformDone
      { fullOf refParams #v[800, 568, 0, -568, -800, -568, 0, 568, 800, 568, 0, -568, -800, -568, 0, 568,
          800, 568, 0, -568, -800, -568, 0, 568, 800, 568, 0, -568, -800, -568, 0, 568] with busy := true }
      (fun t => (t.ready, t.busy, t.done, t.bin.get 4, t.bin.get 3)) = some (true, false, true, 12, 0) := by decide +kernel

/-- TV-X7: every bin overflows and holds 131. -/
theorem test_xformDone_overflow :
    after .xformDone
      { fullOf (params (Vector.replicate 32 32767) 32767) (Vector.replicate 32 8184) with busy := true }
      (fun t => (t.statusWord, t.bin.get 0, t.bin.get 15)) = some (0x0031, 131, 131) := by decide +kernel

/-- TV-X0e. -/
theorem test_indices : (sidx 1 7, cidx 1 7) = (7, 15) ∧ (sidx 1 24, cidx 1 24) = (24, 0) ∧
    (sidx 3 13, cidx 3 13) = (7, 15) ∧ (sidx 15 31, cidx 15 31) = (17, 25) := by decide

/-- TV-X0f. -/
theorem test_tdiv : tdiv 7 2 = 3 ∧ tdiv (-7) 2 = -3 ∧ tdiv (-1) 32768 = 0 ∧ tdiv (-2147483648) 1 = -2147483648 := by decide

/-- The window of TV-X3. -/
def x3 : Window := fun k => if k = 1 then -8 else 0

/-- TV-X3: truncation, not floor. -/
theorem test_truncation :
    reAcc (params tRef 2) x3 1 32 = -1000 ∧ reScaled (params tRef 2) x3 1 = -333 ∧
    imScaled (params tRef 2) x3 1 = 66 ∧ magnitude (params tRef 2) x3 1 = 99 := by decide +kernel

/-- TV-X9: a scaled value of -2^31 and no partial sum out of range. -/
theorem test_overflow_by_scaling :
    let p := params ((Vector.replicate 32 0).set 8 (-32768)) 0
    let x : Window := fun k => if k.val < 16 then 4096 else 0
    leftRange p x 0 32 = false ∧ binOverflow p x 0 = true ∧ magnitude p x 0 = 536870912 := by decide +kernel

/-! ## Host commands -/

/-- TV-H6. -/
theorem test_nop : after .cmdNop { collecting with errcode := 3 } (fun t => (t.statusWord, t.errcode)) =
    some (0x0002, 3) := by decide

/-- TV-H8. -/
theorem test_arm : after .cmdArm { full with done := true } (fun t => (t.statusWord, t.fill)) = some (0x0012, 0) := by
  decide +kernel

/-- TV-H9. -/
theorem test_arm_refused :
    after .cmdArm { collecting with fill := 7 } (fun t => (t.statusWord, t.fill, t.errcode)) = some (0x0002, 7, 4) ∧
    after .cmdArm running (fun t => (t.statusWord, t.errcode)) = some (0x0009, 5) := by decide +kernel

/-- TV-H7. -/
theorem test_clrerr : after .cmdClrerr { running with errcode := 5 } (fun t => (t.statusWord, t.errcode)) =
    some (0x0009, 0) := by decide +kernel

/-- TV-H4, TV-H5. -/
theorem test_rsvd : after (.cmdRsvd 0x0011) full (fun t => (t.statusWord, t.errcode)) = some (0x0001, 1) ∧
    after (.cmdRsvd 0x0004) { full with errcode := 2 } State.errcode = some 2 := by decide +kernel

/-- TV-H10. -/
theorem test_wrOther : after (.wrOther 0x06 0x0000) { full with errcode := 1 } (fun t => (t.statusWord, t.errcode)) =
    some (0x0001, 1) := by decide +kernel

/-! ## Register reads -/

/-- A state whose registers all differ (TV-H13, R193: BIN[3] = 70000). -/
def readable : State :=
  { inFlight 7 with errcode := 4, win := Vector.replicate 32 0xFFC0, bin := Vector.replicate 16 70000, done := true }

theorem test_reads_of_registers :
    after .rdCmd readable State.readData = some (some 0x0000) ∧
    after .rdStatus readable State.readData = some (some 0x0016) ∧
    after .rdFill readable State.readData = some (some 0x0007) ∧
    after .rdErr readable State.readData = some (some 0x0004) ∧
    after .rdCalofs readable State.readData = some (some 0x0200) := by decide +kernel

theorem test_reads_of_window_and_bins :
    after (.rdWin 5) readable State.readData = some (some 0xFFC0) ∧
    after (.rdBinlo 3) readable State.readData = some (some 0x1170) ∧
    after (.rdBinhi 3) readable State.readData = some (some 0x0001) ∧
    after (.rdBinc 3) readable State.readData = some (some 0x000E) ∧
    after (.rdRsvd 0xF0) readable State.readData = some (some 0x0000) := by decide +kernel

/-- R33: a bin within the clip reads as it is. -/
theorem test_read_of_small_bin :
    after (.rdBinc 0) { readable with bin := Vector.replicate 16 7 } State.readData = some (some 7) := by decide +kernel

/-! ## Reset and the step -/

/-- TV-R1, TV-R2. -/
theorem test_reset : after .reset { running with errcode := 4, bin := Vector.replicate 16 5 }
    (fun t => (t.statusWord, t.errcode, t.bin.get 0, t.winWritten.get 0, t.timerEn)) = some (0x0002, 0, 0, false, true) := by
  decide +kernel

/-- TV-A8: the conversion is first, and the tick of the same vector is the next step. -/
theorem test_step_of_a_vector :
    (next? (step ((inFlight 1).withFetchWord 16 0x0E47))).map (fun t => (t.statusWord, t.fill, t.agenda)) =
      some (0x0002, 2, [Cycle.of (.evt 0x0800)]) := by decide +kernel

/-- TV-R6. -/
theorem test_step_of_reset :
    (next? (step (running.withFetchWord 16 0x1C00))).map (fun t => (t.statusWord, t.agenda)) = some (0x0002, []) := by
  decide +kernel

/-- TV-A11, TV-H16. -/
theorem test_step_of_nothing :
    (next? (step (running.withFetchWord 16 0))).map State.statusWord = some 0x0009 ∧
    step (collecting.withFetchWord 32 0x01000000) = .refused .notATransaction := ⟨by decide +kernel, rfl⟩

/-! ## Polls (R80) -/

/-- STATUS where a poll has come to, and the value it stopped at. -/
def polled (o : Host.Outcome Polled Fault Refusal) : Option (BusData × Option BusData) :=
  match o with
  | .next r => some (r.state.statusWord, r.value)
  | .fault _ => none
  | .refused _ => none

/-- The first read finds the run going on, the engine completes between the reads, and the second read stops; with too few
steps in between the poll has not stopped. -/
theorem test_poll_done :
    polled (Poll.done.run [1] (running.offer .internal)) = some (0x0011, some 0x0011) ∧
    polled (Poll.done.run [0] (running.offer .internal)) = some (0x0009, none) := by decide +kernel

/-- It stops at once while READY = 1, and goes on while no conversion fills the window. -/
theorem test_poll_ready :
    polled (Poll.ready.run [3, 2] full) = some (0x0001, some 0x0001) ∧
    polled (Poll.ready.run [1] (collecting.offer (.evt 0x0800))) = some (0x0006, none) ∧
    polled (Poll.ready.run [0, 1] ((inFlight 31).offer (.evt 0x0601))) = some (0x0001, some 0x0001) := by decide +kernel

/-! ## Witnesses: states and operands that meet the hypotheses of the obligations -/

theorem collecting_inv : Inv collecting := by decide +kernel
theorem inFlight_inv : Inv (inFlight 5) ∧ Inv (inFlight 31) := by decide +kernel
theorem full_inv : Inv full := by decide +kernel
theorem running_inv : Inv running := by decide +kernel

theorem witness_DecodeInvertsEncode :
    (Instr.cmdRsvd 0x0004).wf = true ∧ (Instr.cmdRsvd 0xFFFF).wf = true ∧ (Instr.wrOther 0x02 0xFFFF).wf = true ∧
    (Instr.wrOther 0xFF 0x0000).wf = true ∧ (Instr.rdRsvd 0x0A).wf = true ∧ (Instr.rdRsvd 0xFF).wf = true ∧
    (Instr.rdWin 31).wf = true ∧ (Instr.convDone 1023).wf = true := by decide

theorem witness_DecodeIsTotalOnTransactions :
    (0x01000000 : BusWord).extractLsb' 24 7 ≠ 0 ∧ (0x80FFFFFF : BusWord).extractLsb' 24 7 = 0 ∧
    (0x03FF : EvtWord).getLsbD 12 = false ∧ (0x03FF : EvtWord).getLsbD 11 = false ∧
    (0x03FF : EvtWord).getLsbD 10 = false := by decide

theorem witness_DecodeFollowsTheOpcodeMap :
    decodeBus 0x80010002 = .ok .cmdStart ∧
    (busRow (.cmdRsvd 2) = some ⟨0x80000000, 0xFFFE0000, 2⟩ ∧ (0x80010002 : BusWord) &&& 0xFFFE0000 = 0x80000000) ∧
    Instr.tick ∈ decodeEvt 0x0E47 ∧ (0x1FFF : EvtWord) &&& 0x1000 = 0x1000 ∧ (0x0E47 : EvtWord) &&& 0x1400 = 0x0400 ∧
    (0x0E47 : EvtWord) &&& 0x1800 = 0x0800 := by decide

theorem witness_EventVectorsDecodeInOrder :
    (0x1FFF : EvtWord).getLsbD 12 = true ∧
    ((0x07FF : EvtWord).getLsbD 12 = false ∧ (0x07FF : EvtWord).getLsbD 10 = true ∧ (0x07FF : EvtWord).getLsbD 11 = false) ∧
    ((0x0BFF : EvtWord).getLsbD 12 = false ∧ (0x0BFF : EvtWord).getLsbD 10 = false ∧ (0x0BFF : EvtWord).getLsbD 11 = true) ∧
    ((0x0E47 : EvtWord).getLsbD 12 = false ∧ (0x0E47 : EvtWord).getLsbD 10 = true ∧ (0x0E47 : EvtWord).getLsbD 11 = true) ∧
    ((inFlight 1).offer (.evt 0x0E47)).agenda = Cycle.of (.evt 0x0E47) :: [] ∧
    ((inFlight 1).offer (.evt 0x0800)).agenda = Cycle.of (.evt 0x0800) :: [] := by decide +kernel

theorem witness_OddOffsetActsAsEven : (0x80FF0002 : BusWord).extractLsb' 24 7 = 0 := by decide

theorem witness_OperandsAreAssembled :
    decodeBus 0x007F0000 = .ok (.rdWin 31) ∧ decodeBus 0x00BC0000 = .ok (.rdBinlo 15) ∧
    decodeBus 0x00BF0000 = .ok (.rdBinhi 15) ∧ decodeBus 0x00DF0000 = .ok (.rdBinc 15) ∧
    decodeBus 0x80010000 = .ok .cmdNop ∧ decodeBus 0x80000001 = .ok .cmdArm ∧ decodeBus 0x80010002 = .ok .cmdStart ∧
    decodeBus 0x80000003 = .ok .cmdClrerr ∧ Instr.convDone 1023 ∈ decodeEvt 0x07FF := by decide

theorem witness_EncodeGivesBackEveryBitThatMatters :
    decodeBus 0x00BF1234 = .ok (.rdBinhi 15) ∧ decodeBus 0x80FF1234 = .ok (.wrOther 0xFF 0x1234) ∧
    decodeBus 0x00FF0001 = .ok (.rdRsvd 0xFF) ∧ decodeBus 0x8001FFFF = .ok (.cmdRsvd 0xFFFF) := by decide

theorem witness_StepRunsTheDecodedOperation :
    ((collecting.offer (.bus 0x00020000)).agenda = Cycle.of (.bus 0x00020000) :: [] ∧
      decodeBus 0x00020000 = .ok .rdStatus) ∧
    ((collecting.offer (.bus 0x01000000)).agenda = Cycle.of (.bus 0x01000000) :: [] ∧
      decodeBus 0x01000000 = .error .notATransaction) ∧
    ((collecting.offer (.evt 0x0800)).agenda = Cycle.of (.evt 0x0800) :: [] ∧ decodeEvt 0x0800 = [.tick]) ∧
    ((collecting.offer (.evt 0x0E47)).agenda = Cycle.of (.evt 0x0E47) :: [] ∧
      decodeEvt 0x0E47 = [.convDone 583, .tick]) ∧
    ((collecting.offer (.evt 0x03FF)).agenda = Cycle.of (.evt 0x03FF) :: [] ∧ decodeEvt 0x03FF = []) ∧
    (running.offer .internal).agenda = Cycle.of .internal :: [] ∧ collecting.agenda = [] := by decide +kernel

/-- A cycle with every input but RESET. -/
def busyCycle : Cycle := { evt := 0x0E47, bus := some 0x00020000, engine := true }

theorem witness_SimultaneousEventsAreOrdered :
    (busIsTransaction busyCycle ∧ busyCycle.fetch = .op (.convDone 583) { busyCycle with evt := 0x0800 }) ∧
    (busIsTransaction Cycle.empty ∧ Cycle.empty.fetch = .idle) ∧
    { running with agenda := [busyCycle] }.agenda = busyCycle :: [] ∧
    (Inv (inFlight 5) ∧ (inFlight 5).pending = true ∧ (inFlight 5).fill ≠ 31) ∧
    (Inv (inFlight 31) ∧ (inFlight 31).pending = true ∧ (inFlight 31).fill = 31) := by
  refine ⟨⟨fun w h => by cases h; decide, by decide⟩, ⟨fun w h => (by cases h), by decide⟩, rfl, ?_, ?_⟩
  · exact ⟨inFlight_inv.1, by decide +kernel⟩
  · exact ⟨inFlight_inv.2, by decide +kernel⟩

/-- Words that match the rows named in the encoding clauses of the per-operation obligations, ignored bits set. -/
theorem witness_matching_words :
    (0x1FFF : EvtWord) &&& 0x1000 = 0x1000 ∧ (0x0BFF : EvtWord) &&& 0x1800 = 0x0800 ∧
    (0x0FFF : EvtWord) &&& 0x1400 = 0x0400 ∧
    (0x80010000 : BusWord) &&& 0xFFFEFFFF = 0x80000000 ∧ (0x80010001 : BusWord) &&& 0xFFFEFFFF = 0x80000001 ∧
    (0x80010002 : BusWord) &&& 0xFFFEFFFF = 0x80000002 ∧ (0x80010003 : BusWord) &&& 0xFFFEFFFF = 0x80000003 ∧
    (0x0001FFFF : BusWord) &&& 0xFFFE0000 = 0x00000000 ∧ (0x0003FFFF : BusWord) &&& 0xFFFE0000 = 0x00020000 ∧
    (0x0005FFFF : BusWord) &&& 0xFFFE0000 = 0x00040000 ∧ (0x0007FFFF : BusWord) &&& 0xFFFE0000 = 0x00060000 ∧
    (0x0009FFFF : BusWord) &&& 0xFFFE0000 = 0x00080000 ∧ (0x007FFFFF : BusWord) &&& 0xFFC00000 = 0x00400000 ∧
    (0x00BDFFFF : BusWord) &&& 0xFFC20000 = 0x00800000 ∧ (0x00BFFFFF : BusWord) &&& 0xFFC20000 = 0x00820000 ∧
    (0x00DFFFFF : BusWord) &&& 0xFFE00000 = 0x00C00000 := by decide

theorem witness_ResetLeavesTheResetValues :
    (0x80 : Nat) ≤ (0x80 : Offset).toNat ∧ (0x80 : Offset).toNat ≤ 0xDF ∧
    (0x80 : Nat) ≤ (0xDF : Offset).toNat ∧ (0xDF : Offset).toNat ≤ 0xDF := by decide

theorem witness_FirstTickAfterResetRequestsAConversion :
    ∃ t u, exec .reset running = .next t ∧ (∀ i ∈ [Instr.cmdStart, .rdStatus, .cmdArm, .wrOther 0x40 1], isHostAccess i = true) ∧
      runOps [.cmdStart, .rdStatus, .cmdArm, .wrOther 0x40 1] t = some u := ⟨_, _, rfl, by decide, rfl⟩

theorem witness_TickRequestsOneConversion :
    (collecting.sampling = true ∧ collecting.pending = false) ∧ full.sampling = false ∧ (inFlight 0).pending = true := by
  decide +kernel

theorem witness_ConversionStoresTheSample :
    collecting.pending = false ∧ ((inFlight 0).pending = true ∧ (inFlight 0).fill ≠ 31) ∧
    ((inFlight 30).pending = true ∧ (inFlight 30).fill ≠ 31) ∧
    ((inFlight 31).pending = true ∧ (inFlight 31).fill = 31) := by decide +kernel

/-- 31 samples of the raw reading 600 and a tick. -/
def almostWindow : List Instr := samples 600 31 ++ [Instr.tick]

/-- 31 samples and a tick, from a state that has just begun a window. -/
theorem almost_a_window (s : State) (hs : s.sampling = true) (hp : s.pending = false) (hf : s.fill = 0) :
    ∃ t, runOps almostWindow s = some t ∧
      acceptedRaws almostWindow s = List.replicate 31 600 ∧ t.pending = true ∧ t.fill = 31 := by
  obtain ⟨m, h1, h2, h3, h4, h5⟩ := runOps_samples 600 31 s hs hp (by rw [hf]; decide)
  have ha : exec .tick m = .next { m.begin.emitConvReq with pending := true } := by simp [exec, execTick, h3, h4]
  refine ⟨_, runOps_append.mpr ⟨m, h1, runOps_cons.mpr ⟨_, ha, rfl⟩⟩, ?_, rfl, ?_⟩
  · rw [almostWindow, acceptedRaws_append h1, h2, acceptedRaws_other ha (fun r e => by cases e)]
    rfl
  · apply BitVec.eq_of_toNat_eq
    have : m.fill.toNat = 31 := by rw [h5, hf]; rfl
    simpa using this

theorem almostWindow_no_reset : ∀ i ∈ almostWindow, i ≠ .reset := by decide

/-- The state a RESET during a run leaves. -/
def restarted : State := { State.resetWith running.cfg with epoch := running.epoch + 1, agenda := running.agenda }

/-- The state an accepted ARM leaves. -/
def rearmed : State := { full.begin with ready := false, fill := 0, sampling := true }

theorem reset_running : exec .reset running = .next restarted := rfl
theorem arm_full : exec .cmdArm full = .next rearmed := rfl

theorem witness_WindowIsCompleteInAcquisitionOrder :
    (∃ t, exec .reset running = .next restarted ∧ (∀ i ∈ almostWindow, i ≠ .reset) ∧
      runOps almostWindow restarted = some t ∧
      (acceptedRaws almostWindow restarted).length = 31 ∧ t.pending = true) ∧
    (∃ t, (Inv full ∧ full.ready = true ∧ full.busy = false ∧ exec .cmdArm full = .next rearmed) ∧
      (∀ i ∈ almostWindow, i ≠ .reset) ∧
      runOps almostWindow rearmed = some t ∧
      (acceptedRaws almostWindow rearmed)[30]? = some 600 ∧
      (acceptedRaws almostWindow rearmed).length = 31 ∧ t.pending = true) := by
  constructor
  · obtain ⟨t, h1, h2, h3, _⟩ := almost_a_window restarted rfl rfl rfl
    exact ⟨t, reset_running, almostWindow_no_reset, h1, by rw [h2, List.length_replicate], h3⟩
  · obtain ⟨t, h1, h2, h3, _⟩ := almost_a_window rearmed rfl rfl rfl
    exact ⟨t, ⟨full_inv, rfl, rfl, arm_full⟩, almostWindow_no_reset, h1,
      by rw [h2, List.getElem?_replicate_of_lt (by decide)], by rw [h2, List.length_replicate], h3⟩

theorem witness_WindowNeedsThirtyTwoTicks :
    ∃ t, exec .reset running = .next restarted ∧
      (∀ i ∈ almostWindow ++ [Instr.convDone 600], i ≠ Instr.reset) ∧
      runOps (almostWindow ++ [Instr.convDone 600]) restarted = some t ∧ t.ready = true := by
  obtain ⟨m, h1, _, h3, h4⟩ := almost_a_window restarted rfl rfl rfl
  have hc : exec (.convDone 600) m = .next
      (State.windowFull { m.begin.writeWin m.fill.toFin (sample m.cfg 600) with pending := false }) := by
    change execConvDone 600 m = _
    unfold execConvDone
    rw [if_neg (by simp [h3])]
    exact if_pos h4
  refine ⟨_, reset_running, ?_, runOps_append.mpr ⟨m, h1, runOps_cons.mpr ⟨_, hc, rfl⟩⟩, rfl⟩
  intro i hi
  rcases List.mem_append.mp hi with hi | hi
  · exact almostWindow_no_reset i hi
  · rw [List.mem_singleton.mp hi]; simp

theorem witness_NoOverwriteWhileFull :
    Inv full ∧ full.ready = true ∧ (∃ t, exec (.convDone 1023) full = .next t) ∧ Inv running ∧ running.ready = true ∧
    ∃ t, exec .cmdArm running = .next t := ⟨full_inv, rfl, ⟨_, rfl⟩, running_inv, rfl, ⟨_, rfl⟩⟩

theorem witness_ReadyIsReadAfterAllSamples :
    ∃ t v u, Inv full ∧ exec .rdStatus full = .next t ∧ t.readData = some v ∧ v.getLsbD 0 = true ∧
      (∀ j ∈ [Instr.cmdStart, .tick, .convDone 9, .xformDone, .rdErr], j ≠ .cmdArm ∧ j ≠ .reset) ∧
      runOps [Instr.cmdStart, .tick, .convDone 9, .xformDone, .rdErr] t = some u :=
  ⟨_, _, _, full_inv, rfl, rfl, rfl, by simp, rfl⟩

theorem witness_StalledConversionHangsTheBlock :
    ∃ t, Inv (inFlight 5) ∧ (inFlight 5).pending = true ∧
      (∀ i ∈ [Instr.tick, .cmdStart, .tick], i ≠ .reset ∧ ∀ raw, i ≠ .convDone raw) ∧
      runOps [.tick, .cmdStart, .tick] (inFlight 5) = some t :=
  ⟨_, inFlight_inv.1, rfl, by simp, rfl⟩

theorem witness_OnlyAnAcceptedTickDrivesConvReq :
    (∃ t, exec .tick collecting = .next t) ∧ ∃ t, exec .cmdArm full = .next t := ⟨⟨_, rfl⟩, ⟨_, rfl⟩⟩

/-- The states of an endless run of operations that are all performed. -/
def endless (ops : Nat → Instr) (s : State) : Nat → State
  | 0 => s
  | n + 1 => (next? (exec (ops n) (endless ops s n))).getD s

theorem endless_follows {ops : Nat → Instr} {s : State} (h : ∀ n, ∃ t, exec (ops n) (endless ops s n) = .next t) (n : Nat) :
    exec (ops n) (endless ops s n) = .next (endless ops s (n + 1)) := by
  obtain ⟨t, ht⟩ := h n
  simp [endless, next?, ht]

theorem convDone_next (raw : RawReading) (s : State) : ∃ t, exec (.convDone raw) s = .next t := by
  simp only [exec, execConvDone]
  split
  · exact ⟨_, rfl⟩
  · split <;> exact ⟨_, rfl⟩

theorem tick_next (s : State) : ∃ t, exec .tick s = .next t := by
  simp only [exec, execTick]
  split
  · exact ⟨_, rfl⟩
  · split <;> exact ⟨_, rfl⟩

/-- Two samples and then no operation any more. -/
def twoSamples : Nat → Instr
  | 0 => .tick
  | 1 => .convDone 600
  | 2 => .tick
  | 3 => .convDone 601
  | _ + 4 => .cmdNop

theorem witness_OneConversionPerRequest :
    (∀ n, exec (twoSamples n) (endless twoSamples collecting n) = .next (endless twoSamples collecting (n + 1))) ∧
    AdcContract twoSamples (endless twoSamples collecting) ∧
    twoSamples 1 = .convDone 600 ∧ twoSamples 3 = .convDone 601 := by
  refine ⟨endless_follows fun n => ?_, fun n raw h => ?_, rfl, rfl⟩
  · match n with
    | 0 => exact tick_next _
    | 1 => exact convDone_next _ _
    | 2 => exact tick_next _
    | 3 => exact convDone_next _ _
    | _ + 4 => exact ⟨_, rfl⟩
  · match n, h with
    | 1, _ => decide +kernel
    | 3, _ => decide +kernel

theorem witness_StartBeginsARun :
    running.busy = true ∧ (collecting.busy = false ∧ collecting.ready = false) ∧
    (finished.busy = false ∧ finished.ready = true) := by decide +kernel

theorem witness_XformDonePublishesTheBins : running.busy = true ∧ full.busy = false := by decide +kernel

theorem witness_ProductsFitThirtyTwoBits : ∀ i : Fin 32, |(fun _ => -8184 : Window) i| ≤ 8184 := by decide

theorem witness_OverflowVerdictIsExact :
    binOverflow (params (Vector.replicate 32 32767) 32767) (fun _ => 8184) 0 = true ∧
    binOverflow (params (Vector.replicate 32 8191) 0) (fun _ => 8184) 0 = false ∧
    (reAcc (params ((Vector.replicate 32 0).set 8 (-32768)) 0) (fun k => if k.val < 16 then 4096 else 0) 0 32).tdiv
      (scaleDiv (params ((Vector.replicate 32 0).set 8 (-32768)) 0)) = -2 ^ 31 := by decide +kernel

theorem witness_ClosedFormWithoutOverflow : binOverflow (params tRef 2) x3 1 = false := by decide +kernel

theorem witness_SmallTablesNeverOverflow :
    (∀ i : Nat, |sine (params (Vector.replicate 32 8191) 0) i| ≤ 8191) ∧
    (∀ i : Fin 32, |(fun _ => 8184 : Window) i| ≤ 8184) := by
  refine ⟨fun i => ?_, by decide⟩
  have h : ∀ j : Fin 32, |((params (Vector.replicate 32 8191) 0).sineTable.get j).toInt| ≤ 8191 := by decide +kernel
  exact h (Fin.ofNat 32 i)

/-- Another state over the window of `running`. -/
def otherRun : State := { running with errcode := 3, ovf := true, bin := Vector.replicate 16 5, epoch := 9 }

theorem witness_RunsDependOnlyOnTheWindow :
    running.cfg.sineTable = otherRun.cfg.sineTable ∧ running.cfg.scaleDivPred = otherRun.cfg.scaleDivPred ∧
    (∀ i, running.readWin i = otherRun.readWin i) ∧ running.busy = true ∧ otherRun.busy = true :=
  ⟨rfl, rfl, fun i => State.readWin_of_written (by revert i; decide +kernel) |>.trans
    (State.readWin_of_written (s := otherRun) (by revert i; decide +kernel)).symm, rfl, rfl⟩

theorem witness_ZeroWindowGivesZeroBins :
    (∀ i : Fin 32, (fun _ => 0 : Window) i = 0) ∧ running.busy = true ∧ (∀ i, running.readWin i = 0) ∧
    (512 : RawReading).toNat = refParams.calOffset.toNat := by
  refine ⟨fun _ => rfl, rfl, fun i => ?_, rfl⟩
  rw [State.readWin_of_written (by revert i; decide +kernel)]
  revert i
  decide +kernel

theorem witness_BinZeroMeasuresTheSum :
    (running.busy = true ∧ binOverflow running.cfg running.window 0 = false) ∧
    ({ fullOf (params tRef 0) (Vector.replicate 32 8184) with busy := true }.busy = true ∧
      binOverflow (params tRef 0) { fullOf (params tRef 0) (Vector.replicate 32 8184) with busy := true }.window 0 = false) := by
  decide +kernel

theorem witness_RunReadsTheWindowOfItsStart :
    ∃ s t, Inv full ∧ full.ready = true ∧ full.busy = false ∧ exec .cmdStart full = .next s ∧
      (∀ i ∈ [Instr.tick, .cmdArm, .convDone 3], i ≠ .reset ∧ i ≠ .xformDone) ∧
      runOps [.tick, .cmdArm, .convDone 3] s = some t := ⟨_, _, full_inv, rfl, rfl, rfl, by simp, rfl⟩

/-- A run that completes, and then no operation any more. -/
def oneRun : Nat → Instr
  | 0 => .xformDone
  | _ + 1 => .cmdNop

theorem oneRun_follows (n : Nat) :
    exec (oneRun n) (endless oneRun running n) = .next (endless oneRun running (n + 1)) :=
  endless_follows (fun n => by cases n <;> exact ⟨_, rfl⟩) n

theorem oneRun_idle (n : Nat) : (endless oneRun running (n + 1)).busy = false := by
  induction n with
  | zero => rfl
  | succ n ih =>
    have h := oneRun_follows (n + 1)
    cases h
    exact ih

theorem witness_EveryRunCompletesOrIsReset :
    Execution oneRun (endless oneRun running) ∧ (endless oneRun running 0).busy = true :=
  ⟨⟨oneRun_follows, fun n => ⟨n + 1, by omega, oneRun_idle n⟩⟩, rfl⟩

theorem witness_ArmRearmsAcquisition :
    running.busy = true ∧ (collecting.busy = false ∧ collecting.ready = false) ∧
    (full.busy = false ∧ full.ready = true) := by decide +kernel

theorem witness_NopAndOtherWritesChangeNothing : 2 ≤ (0x02 : Offset).toNat ∧ 2 ≤ (0xFF : Offset).toNat := by decide

theorem witness_ReservedCommandsRaiseErrorOne :
    ((0x00 : Offset).toNat < 2 ∧ 16 ≤ (0x0010 : BusData).toNat) ∧
    ((0x01 : Offset).toNat < 2 ∧ 4 ≤ (0x0004 : BusData).toNat % 16) ∧ 4 ≤ (0xFFFF : BusData).toNat % 16 := by decide

theorem witness_CmdAndReservedReadZero :
    (0x0A ≤ (0x0A : Offset).toNat ∧ (0x0A : Offset).toNat ≤ 0x3F) ∧
    (0x0A ≤ (0x3F : Offset).toNat ∧ (0x3F : Offset).toNat ≤ 0x3F) ∧ 0xE0 ≤ (0xE0 : Offset).toNat ∧
    0xE0 ≤ (0xFF : Offset).toNat := by decide

theorem witness_StatusReadsTheFlags : 6 ≤ 6 ∧ 6 ≤ 15 := by decide

theorem witness_WindowReadsTheSample : (inFlight 1).winWritten.get 0 = true ∧ full.winWritten.get 31 = true := by
  decide +kernel

theorem witness_BinHalvesRead : Inv full ∧ Inv { full with bin := Vector.replicate 16 0x40000000 } := by decide +kernel

theorem witness_ClippedBinReads : (0 : Int) ≤ 0 ∧ (0 : Int) ≤ 15 := by decide

theorem witness_ReadsHaveNoSideEffect :
    isRead (.rdWin 31) = true ∧ isRead (.rdRsvd 0xFF) = true ∧ ∀ j ∈ [Instr.rdStatus, .rdWin 31, .rdErr], isRead j = true := by
  decide

theorem witness_AccessesFollowTheRegisterMap : 2 ≤ (0x02 : Offset).toNat ∧ 2 ≤ (0xFF : Offset).toNat := by decide

theorem witness_HostAddressesReachTheBlockAtBase :
    (refParams.base ≤ 0x200 ∧ 0x200 ≤ refParams.base + 0xFF) ∧ (refParams.base ≤ 0x2FF ∧ 0x2FF ≤ refParams.base + 0xFF) ∧
    0x1FF < refParams.base ∧ refParams.base + 0xFF < 0x300 := by decide

theorem witness_ConfigurationsOutsideTheRangesAreRefused :
    configure 512 tRef 32768 0x200 = some refParams ∧
    (configure 0 (tRef.set 0 32767) 1 0).isSome ∧ (configure 1023 (tRef.set 0 (-32768)) 2147483647 0).isSome ∧
    configure 1024 tRef 1 0 = none ∧ configure 0 (tRef.set 31 (-32769)) 1 0 = none := by decide +kernel

theorem witness_FirstErrorIsKept :
    collecting.errcode = 0 ∧ (∃ t, exec .cmdStart { collecting with errcode := 4 } = .next t) ∧
    { collecting with errcode := 4 }.errcode ≠ 0 := ⟨rfl, ⟨_, rfl⟩, by decide⟩

theorem witness_ErrorsFollowTheErrorTable :
    (BusyIsReady collecting ∧ collecting.errcode = 0 ∧ collecting.ready = false ∧
      ∃ t, exec .cmdStart collecting = .next t ∧ t.errcode ≠ 0) ∧
    (BusyIsReady running ∧ running.errcode = 0 ∧ running.busy = true ∧
      ∃ t, exec .cmdArm running = .next t ∧ t.errcode ≠ 0) :=
  ⟨⟨by decide +kernel, rfl, rfl, _, rfl, by decide +kernel⟩, ⟨by decide +kernel, rfl, rfl, _, rfl, by decide +kernel⟩⟩

theorem witness_RaisingAnErrorChangesNothingElse :
    ∃ t, exec (.cmdRsvd 0x0011) full = .next t ∧ t.errcode ≠ full.errcode := ⟨_, rfl, by decide +kernel⟩

theorem witness_RefusedStartIsNotDeferred :
    ∃ t u, Inv (inFlight 31) ∧ (inFlight 31).ready = false ∧ exec .cmdStart (inFlight 31) = .next t ∧
      (∀ i ∈ [Instr.convDone 9, .cmdNop], i ≠ .cmdStart) ∧ runOps [.convDone 9, .cmdNop] t = some u :=
  ⟨_, _, inFlight_inv.2, rfl, rfl, by simp, rfl⟩

theorem witness_StepKeepsTheInvariants :
    (∃ t, Inv (running.offer .internal) ∧ step (running.offer .internal) = .next t) ∧
    ∃ t, Inv ((inFlight 31).offer (.evt 0x0E47)) ∧ step ((inFlight 31).offer (.evt 0x0E47)) = .next t :=
  ⟨⟨_, by decide +kernel, rfl⟩, ⟨_, by decide +kernel, rfl⟩⟩

theorem witness_StepKeepsTheWindow :
    ∃ t, WindowHoldsSamples (full.offer (.bus 0x80000001)) ∧ WindowCanonical (full.offer (.bus 0x80000001)) ∧
      step (full.offer (.bus 0x80000001)) = .next t := by
  refine ⟨_, fun i _ => ⟨512, ?_⟩, by decide +kernel, rfl⟩
  revert i
  decide +kernel

theorem witness_ConfigurationIsNeverWritten : ∃ t, step (running.offer (.evt 0x1000)) = .next t := ⟨_, rfl⟩

theorem witness_StateIsWrittenOnlyByItsWriters :
    (∃ t, exec .cmdNop running = .next t) ∧ (∃ t, exec .xformDone running = .next t) ∧
    ∃ t, exec .tick collecting = .next t := ⟨⟨_, rfl⟩, ⟨_, rfl⟩, ⟨_, rfl⟩⟩

end Sys2Proof.Tests
end

section
/-! R11 (spec/00_scope.md): the configurations that `configure` admits, and the values an admitted one holds. -/

namespace Sys2Proof.Machine

/-- What `Params` keeps of a configuration: each parameter cut to the width of its field (R10). -/
def paramsOf (cal : Int) (table : Vector Int 32) (div : Int) (base : Nat) : Params :=
  { calOffset := BitVec.ofInt 10 cal
    sineTable := table.map (BitVec.ofInt 16)
    scaleDivPred := Fin.ofNat 2147483647 (div.toNat - 1)
    base := base }

@[simp] theorem fits16_iff (v : Int) : fits16 v = true ↔ -32768 ≤ v ∧ v ≤ 32767 := by
  simp [fits16]

theorem all_fits16_iff (table : Vector Int 32) :
    table.all fits16 = true ↔ ∀ i : Fin 32, -32768 ≤ table.get i ∧ table.get i ≤ 32767 := by
  simp [Vector.all_eq_true, Fin.forall_iff, Vector.get_eq_getElem]

section
variable {cal : Int} {table : Vector Int 32} {div : Int} {base : Nat}

theorem configure_eq_some_iff {p : Params} :
    configure cal table div base = some p ↔
      ((0 ≤ cal ∧ cal ≤ 1023) ∧ (∀ i : Fin 32, -32768 ≤ table.get i ∧ table.get i ≤ 32767) ∧
        (1 ≤ div ∧ div ≤ 2147483647)) ∧ paramsOf cal table div base = p := by
  rw [← all_fits16_iff]
  simp only [configure, paramsOf, Option.ite_none_right_eq_some, Option.some.injEq]

theorem configure_eq_none_iff :
    configure cal table div base = none ↔
      cal < 0 ∨ 1023 < cal ∨ (∃ i : Fin 32, table.get i < -32768 ∨ 32767 < table.get i) ∨
        div < 1 ∨ 2 ^ 31 - 1 < div := by
  rw [configure, ite_eq_right_iff, all_fits16_iff]
  simp only [reduceCtorEq, imp_false, not_and_or, not_forall, not_le, or_assoc, Int.reducePow, Int.reduceSub]

theorem calOffset_paramsOf (lo : 0 ≤ cal) (hi : cal ≤ 1023) : calOffset (paramsOf cal table div base) = cal := by
  simp only [calOffset, paramsOf, BitVec.toNat_ofInt]
  omega

theorem sine_paramsOf (i : Fin 32) (lo : -32768 ≤ table.get i) (hi : table.get i ≤ 32767) :
    sine (paramsOf cal table div base) i.val = table.get i := by
  simp only [sine, paramsOf, Fin.ofNat_val_eq_self, Vector.get_map]
  exact BitVec.toInt_ofInt_eq_self (by decide) lo (by omega)

theorem scaleDiv_paramsOf (lo : 1 ≤ div) (hi : div ≤ 2147483647) :
    scaleDiv (paramsOf cal table div base) = div := by
  simp only [scaleDiv, paramsOf, Fin.val_ofNat]
  omega

end

/-- Settles O52: the refusing branch of `configure` is the negation of the ranges, and inside them no field of `Params`
cuts its parameter. -/
theorem configurationsOutsideTheRangesAreRefused : Obligations.ConfigurationsOutsideTheRangesAreRefused := by
  intro cal table div base
  refine ⟨configure_eq_none_iff, fun p admitted => ?_⟩
  obtain ⟨⟨⟨calLo, calHi⟩, entries, divLo, divHi⟩, rfl⟩ := configure_eq_some_iff.mp admitted
  exact ⟨calOffset_paramsOf calLo calHi, fun i => sine_paramsOf i (entries i).1 (entries i).2,
    scaleDiv_paramsOf divLo divHi, rfl⟩

end Sys2Proof.Machine
end

section
/-! R21 and R36 (spec/10_state.md): what every operation has in common, that it leaves the configuration as it was and,
unless it is an accepted TICK, does not drive conv_req. -/

namespace Sys2Proof.Machine

open Sys2Proof.Safety

/-- One pass over the operations for both facts, since each of them but TICK starts from `begin`, `respond`, `publish` or
`resetWith`, which keep the configuration and leave conv_req undriven. -/
theorem exec_cfg_and_convReq {i : Instr} {s t : State} (h : exec i s = .next t) :
    t.cfg = s.cfg ∧ (i ≠ .tick → t.convReq = false) := by
  by_cases read : isRead i = true
  · obtain ⟨v, rfl⟩ := exec_read_next read h
    exact ⟨rfl, fun _ => rfl⟩
  cases i with
  | cmdNop | cmdClrerr | wrOther | reset => cases h; exact ⟨rfl, fun _ => rfl⟩
  | cmdRsvd => cases h; simp
  | cmdArm => obtain ⟨-, rfl⟩ | ⟨-, -, rfl⟩ | ⟨-, -, rfl⟩ := execCmdArm_next h <;> simp
  | cmdStart => obtain ⟨-, rfl⟩ | ⟨-, -, rfl⟩ | ⟨-, -, rfl⟩ := execCmdStart_next h <;> simp
  | convDone => obtain ⟨-, rfl⟩ | ⟨-, -, rfl⟩ | ⟨-, -, rfl⟩ := execConvDone_next h <;> simp
  | xformDone => obtain ⟨-, rfl⟩ := execXformDone_next h; simp
  | tick => obtain ⟨-, rfl⟩ | ⟨-, -, rfl⟩ := execTick_next h <;> simp
  | rdCmd | rdStatus | rdFill | rdErr | rdCalofs | rdWin | rdBinlo | rdBinhi | rdBinc | rdRsvd => exact absurd rfl read

theorem exec_cfg {i : Instr} {s t : State} (h : exec i s = .next t) : t.cfg = s.cfg :=
  (exec_cfg_and_convReq h).1

theorem exec_convReq_of_ne_tick {i : Instr} {s t : State} (h : exec i s = .next t) (notTick : i ≠ .tick) :
    t.convReq = false :=
  (exec_cfg_and_convReq h).2 notTick

/-- TICK drives conv_req exactly in its accepting branch (spec/40_acquisition.md R100). -/
theorem execTick_convReq_iff {s t : State} (h : execTick s = .next t) :
    t.convReq = true ↔ s.sampling = true ∧ s.pending = false := by
  obtain ⟨frozen | inFlight, rfl⟩ | ⟨sampling, free, rfl⟩ := execTick_next h
  · simp [frozen]
  · simp [inFlight]
  · simp [sampling, free]

/-- Settles O23: every operation but TICK leaves conv_req undriven, and TICK drives it exactly when it is accepted. -/
theorem onlyAnAcceptedTickDrivesConvReq : Obligations.OnlyAnAcceptedTickDrivesConvReq := by
  intro s t i h
  by_cases isTick : i = .tick
  · subst isTick
    simp [execTick_convReq_iff h]
  · simp [isTick, exec_convReq_of_ne_tick h isTick]

/-- Settles O59: an idle step changes only the outputs and the agenda, and no operation writes the configuration. -/
theorem configurationIsNeverWritten : Obligations.ConfigurationIsNeverWritten := by
  intro s t h
  obtain ⟨-, rfl⟩ | ⟨c, rest, -, -, rfl⟩ | ⟨c, rest, i, left, -, -, performed⟩ := step_next h
  · rfl
  · rfl
  · simpa using exec_cfg performed

end Sys2Proof.Machine
end

section
/-! R51, R52 and R55 (spec/20_memory.md): an access is performed by the register map, and A[0] has no part in it. -/

namespace Sys2Proof.Machine

/-! ## Fields as numbers -/

theorem extractLsb'_eq_iff {n k l : Nat} (w : BitVec n) (v : BitVec l) :
    w.extractLsb' k l = v ↔ w.toNat / 2 ^ k % 2 ^ l = v.toNat := by
  rw [← BitVec.toNat_inj, BitVec.extractLsb'_toNat, Nat.shiftRight_eq_div_pow]

theorem toFin_extractLsb'_eq {n k l : Nat} (w : BitVec n) {i : Fin (2 ^ l)} (h : w.toNat / 2 ^ k % 2 ^ l = i.val) :
    (w.extractLsb' k l).toFin = i := by
  rw [(extractLsb'_eq_iff w (BitVec.ofFin i)).mpr h]

/-- A field of two words that agree under a mask that keeps the whole field. -/
theorem extractLsb'_eq_of_mask {n : Nat} {w w' m : BitVec n} (h : w &&& m = w' &&& m) (k l : Nat)
    (kept : m.extractLsb' k l = BitVec.allOnes l) : w.extractLsb' k l = w'.extractLsb' k l := by
  simpa [BitVec.extractLsb'_and, kept] using congrArg (BitVec.extractLsb' k l) h

/-- The CMD register is at the offsets 0x00 and 0x01. -/
theorem isCmdOffset_iff {a : Offset} : isCmdOffset a = true ↔ a.toNat < 2 := by
  have bound := a.isLt
  rw [isCmdOffset, beq_iff_eq, extractLsb'_eq_iff]
  simp only [BitVec.reduceToNat]
  omega

/-! ## Reads -/

/-- The decoder's tests on fields of A (R76) are the ranges of the even offset in the order of R51.
The five single registers stand first in both; below them each block of the map decides every test on
either side. -/
theorem decodeRead_eq (a : Offset) :
    decodeRead a =
      let o := 2 * (a.toNat / 2)
      if o = 0x00 then .rdCmd
      else if o = 0x02 then .rdStatus
      else if o = 0x04 then .rdFill
      else if o = 0x06 then .rdErr
      else if o = 0x08 then .rdCalofs
      else if o < 0x40 then .rdRsvd a
      else if o < 0x80 then .rdWin (Fin.ofNat 32 ((o - 0x40) / 2))
      else if o < 0xC0 then
        if (o - 0x80) % 4 = 0 then .rdBinlo (Fin.ofNat 16 ((o - 0x80) / 4))
        else .rdBinhi (Fin.ofNat 16 ((o - 0x82) / 4))
      else if o < 0xE0 then .rdBinc (Fin.ofNat 16 ((o - 0xC0) / 2))
      else .rdRsvd a := by
  have bound := a.isLt
  simp only [decodeRead, extractLsb'_eq_iff, BitVec.reduceToNat]
  refine if_congr (by omega) rfl <| if_congr (by omega) rfl <| if_congr (by omega) rfl <|
    if_congr (by omega) rfl <| if_congr (by omega) rfl ?_
  obtain low | win | bin | binc | high : a.toNat < 0x40 ∨ (0x40 ≤ a.toNat ∧ a.toNat < 0x80) ∨
    (0x80 ≤ a.toNat ∧ a.toNat < 0xC0) ∨ (0xC0 ≤ a.toNat ∧ a.toNat < 0xE0) ∨ 0xE0 ≤ a.toNat := by omega
  · simp (disch := omega) only [if_pos, if_neg]
  · simp (disch := omega) only [if_pos, if_neg]
    exact congrArg Instr.rdWin (toFin_extractLsb'_eq a (by rw [Fin.val_ofNat]; omega))
  · obtain lo | hi : a.toNat / 2 % 2 = 0 ∨ a.toNat / 2 % 2 = 1 := by omega
    · simp (disch := omega) only [if_pos, if_neg]
      exact congrArg Instr.rdBinlo (toFin_extractLsb'_eq a (by rw [Fin.val_ofNat]; omega))
    · simp (disch := omega) only [if_pos, if_neg]
      exact congrArg Instr.rdBinhi (toFin_extractLsb'_eq a (by rw [Fin.val_ofNat]; omega))
  · simp (disch := omega) only [if_pos, if_neg]
    exact congrArg Instr.rdBinc (toFin_extractLsb'_eq a (by rw [Fin.val_ofNat]; omega))
  · simp (disch := omega) only [if_pos, if_neg]

/-- A choice between two reads answers the choice between their values. -/
theorem exec_ite_respond {c : Prop} [Decidable c] {i j : Instr} {s : State} {v w : BusData}
    (hi : exec i s = .next (s.respond v)) (hj : exec j s = .next (s.respond w)) :
    exec (if c then i else j) s = .next (s.respond (if c then v else w)) := by
  split
  · exact hi
  · exact hj

/-- Every read returns what the register map holds at its offset, and changes nothing else (R51, R56): the decoder and the
map choose alike. -/
theorem exec_decodeRead (s : State) (a : Offset) : exec (decodeRead a) s = .next (s.respond (s.regRead a)) := by
  simp only [decodeRead_eq, State.regRead]
  repeat' apply exec_ite_respond
  all_goals rfl

/-- The map ignores bit 0 of the offset (R52). -/
theorem State.regRead_congr (s : State) {a b : Offset} (h : a.toNat / 2 = b.toNat / 2) : s.regRead a = s.regRead b := by
  simp only [State.regRead, h]

/-! ## Accesses -/

/-- Two transactions whose descriptors differ in A[0] alone are performed alike (R52). -/
theorem exec_decodeBus_of_mask {w w' : BusWord} (valid : busZ w = 0) (h : w &&& 0xFFFEFFFF = w' &&& 0xFFFEFFFF) :
    ∃ i j, decodeBus w = .ok i ∧ decodeBus w' = .ok j ∧ ∀ s, exec i s = exec j s := by
  have sameW : busW w = busW w' := by rw [busW, busW, extractLsb'_eq_of_mask h 31 1 (by decide)]
  have sameZ : busZ w = busZ w' := extractLsb'_eq_of_mask h 24 7 (by decide)
  have sameD : busD w = busD w' := extractLsb'_eq_of_mask h 0 16 (by decide)
  have sameRegister : (busA w).toNat / 2 = (busA w').toNat / 2 := by
    have field := congrArg BitVec.toNat (extractLsb'_eq_of_mask h 17 7 (by decide))
    simp only [busA, BitVec.extractLsb'_toNat, Nat.shiftRight_eq_div_pow] at field ⊢
    omega
  have sameCmd : isCmdOffset (busA w) = isCmdOffset (busA w') := by
    rw [Bool.eq_iff_iff, isCmdOffset_iff, isCmdOffset_iff]
    omega
  refine ⟨_, _, decodeBus_of_busZ valid, decodeBus_of_busZ (sameZ ▸ valid), fun s => ?_⟩
  rw [← sameW, ← sameCmd, ← sameD]
  split
  · split <;> rfl
  · rw [exec_decodeRead, exec_decodeRead, s.regRead_congr sameRegister]

/-- Settles O49: a read is performed by the map, and a write outside CMD is WR_OTHER. -/
theorem accessesFollowTheRegisterMap : Obligations.AccessesFollowTheRegisterMap := by
  refine ⟨fun s a d => ⟨decodeRead a, ?_, exec_decodeRead s a⟩, fun s a d other => ⟨.wrOther a d, s.epoch + 1, ?_, rfl⟩⟩
  · simp [decodeBus_of_busZ]
  · have notCmd : ¬ isCmdOffset a = true := by rw [isCmdOffset_iff]; omega
    simp [decodeBus_of_busZ, notCmd]

/-- Settles O6: setting A[0] and clearing it give two descriptors that differ in A[0] alone. -/
theorem oddOffsetActsAsEven : Obligations.OddOffsetActsAsEven := by
  intro w valid
  have sameButA0 : (w ||| 0x00010000) &&& 0xFFFEFFFF = w &&& 0xFFFEFFFF &&& 0xFFFEFFFF := by
    rw [BitVec.and_or_distrib_right, BitVec.and_assoc]
    simp
  exact exec_decodeBus_of_mask (by simp [busZ, BitVec.extractLsb'_or, valid]) sameButA0

end Sys2Proof.Machine
end

section
/-! R75 and R78 (spec/30_encoding.md): what the decoder answers, said once by the fields of a descriptor and of a vector. -/

namespace Sys2Proof.Machine

/-! ## Descriptors by fields -/

/-- The fields W, A and D that the row of an operation admits (R76, R82). -/
def InRow (wr : Bool) (a : Offset) (d : BusData) : Instr → Prop
  | .cmdNop => wr = true ∧ a.toNat < 2 ∧ d.toNat = 0
  | .cmdArm => wr = true ∧ a.toNat < 2 ∧ d.toNat = 1
  | .cmdStart => wr = true ∧ a.toNat < 2 ∧ d.toNat = 2
  | .cmdClrerr => wr = true ∧ a.toNat < 2 ∧ d.toNat = 3
  | .cmdRsvd _ => wr = true ∧ a.toNat < 2
  | .wrOther _ _ => wr = true
  | .rdCmd => wr = false ∧ a.toNat / 2 = 0
  | .rdStatus => wr = false ∧ a.toNat / 2 = 1
  | .rdFill => wr = false ∧ a.toNat / 2 = 2
  | .rdErr => wr = false ∧ a.toNat / 2 = 3
  | .rdCalofs => wr = false ∧ a.toNat / 2 = 4
  | .rdWin _ => wr = false ∧ a.toNat / 64 = 1
  | .rdBinlo _ => wr = false ∧ a.toNat / 64 = 2 ∧ a.toNat / 2 % 2 = 0
  | .rdBinhi _ => wr = false ∧ a.toNat / 64 = 2 ∧ a.toNat / 2 % 2 = 1
  | .rdBinc _ => wr = false ∧ a.toNat / 32 = 6
  | .rdRsvd _ => wr = false
  | .reset | .convDone _ | .tick | .xformDone => False

/-- The operands of an operation are the fields of A and D that R78 assembles them from. -/
def HasOperands (a : Offset) (d : BusData) : Instr → Prop
  | .cmdRsvd d' => d' = d
  | .wrOther a' d' => a' = a ∧ d' = d
  | .rdWin i => i.val = a.toNat / 2 % 32
  | .rdBinlo u | .rdBinhi u => u.val = a.toNat / 4 % 16
  | .rdBinc u => u.val = a.toNat / 2 % 16
  | .rdRsvd a' => a' = a
  | _ => True

/-- An operation is one that W, A and D stand for: they lie in its row and give its operands, and an operation of the three
rows taken only after others holds what those leave over. -/
structure StandsFor (wr : Bool) (a : Offset) (d : BusData) (i : Instr) : Prop where
  row : InRow wr a d i
  operands : HasOperands a d i
  wf : i.wf = true

theorem toFin_extractLsb'_val {n k l : Nat} (w : BitVec n) : (w.extractLsb' k l).toFin.val = w.toNat / 2 ^ k % 2 ^ l :=
  ((extractLsb'_eq_iff w _).mp rfl).symm

theorem isReservedOffset_iff {a : Offset} :
    isReservedOffset a = true ↔ (0x0A ≤ a.toNat ∧ a.toNat ≤ 0x3F) ∨ 0xE0 ≤ a.toNat := by
  simp only [isReservedOffset, Bool.or_eq_true, Bool.and_eq_true, decide_eq_true_eq]

theorem decodeCommand_standsFor {a : Offset} (cmd : a.toNat < 2) (d : BusData) : StandsFor true a d (decodeCommand d) := by
  rw [decodeCommand_eq]
  split_ifs with nop arm start clrerr
  · exact ⟨⟨rfl, cmd, nop⟩, trivial, rfl⟩
  · exact ⟨⟨rfl, cmd, arm⟩, trivial, rfl⟩
  · exact ⟨⟨rfl, cmd, start⟩, trivial, rfl⟩
  · exact ⟨⟨rfl, cmd, clrerr⟩, trivial, rfl⟩
  · exact ⟨⟨rfl, cmd⟩, rfl, isReservedCommand_iff.mpr (by omega)⟩

theorem decodeRead_standsFor (a : Offset) (d : BusData) : StandsFor false a d (decodeRead a) := by
  have bound := a.isLt
  simp only [decodeRead, extractLsb'_eq_iff, BitVec.reduceToNat]
  split_ifs with cmd status fill err calofs win bin lo binc
  · exact ⟨⟨rfl, by omega⟩, trivial, rfl⟩
  · exact ⟨⟨rfl, by omega⟩, trivial, rfl⟩
  · exact ⟨⟨rfl, by omega⟩, trivial, rfl⟩
  · exact ⟨⟨rfl, by omega⟩, trivial, rfl⟩
  · exact ⟨⟨rfl, by omega⟩, trivial, rfl⟩
  · exact ⟨⟨rfl, by omega⟩, toFin_extractLsb'_val a, rfl⟩
  · exact ⟨⟨rfl, by omega, by omega⟩, toFin_extractLsb'_val a, rfl⟩
  · exact ⟨⟨rfl, by omega, by omega⟩, toFin_extractLsb'_val a, rfl⟩
  · exact ⟨⟨rfl, by omega⟩, toFin_extractLsb'_val a, rfl⟩
  · exact ⟨rfl, rfl, isReservedOffset_iff.mpr (by omega)⟩

theorem wrOther_standsFor {a : Offset} (notCmd : ¬ isCmdOffset a = true) (d : BusData) :
    StandsFor true a d (.wrOther a d) :=
  ⟨rfl, ⟨rfl, rfl⟩, by simpa [Instr.wf] using notCmd⟩

/-- A descriptor with Z other than 0 is refused (R75). -/
theorem decodeBus_of_busZ_ne_zero {w : BusWord} (h : busZ w ≠ 0) : decodeBus w = .error .notATransaction := if_neg h

/-- Everything the BUS decoder can answer: the operation that the fields of a descriptor with Z = 0 stand for. -/
theorem decodeBus_ok {w : BusWord} {i : Instr} (h : decodeBus w = .ok i) :
    busZ w = 0 ∧ StandsFor (busW w) (busA w) (busD w) i := by
  by_cases valid : busZ w = 0
  · rw [decodeBus_of_busZ valid, Except.ok.injEq] at h
    refine ⟨valid, h ▸ ?_⟩
    split_ifs with write cmd
    · exact write ▸ decodeCommand_standsFor (isCmdOffset_iff.mp cmd) (busD w)
    · exact write ▸ wrOther_standsFor cmd (busD w)
    · exact Bool.eq_false_iff.mpr write ▸ decodeRead_standsFor (busA w) (busD w)
  · rw [decodeBus_of_busZ_ne_zero valid] at h
    cases h

theorem busA_toNat (w : BusWord) : (busA w).toNat = w.toNat / 65536 % 256 := by
  rw [busA, BitVec.extractLsb'_toNat, Nat.shiftRight_eq_div_pow]

theorem busD_toNat (w : BusWord) : (busD w).toNat = w.toNat % 65536 := by
  simp [busD]

/-! ## Vectors by fields -/

/-- The operations a vector holds (R77), their order apart. -/
theorem mem_decodeEvt_iff {v : EvtWord} {i : Instr} :
    i ∈ decodeEvt v ↔ (evtR v = true ∧ i = .reset) ∨ (evtR v = false ∧ evtC v = true ∧ i = .convDone (evtV v)) ∨
      (evtR v = false ∧ evtT v = true ∧ i = .tick) := by
  unfold decodeEvt
  cases evtR v <;> simp

theorem raw_of_mem_decodeEvt {v : EvtWord} {raw : RawReading} (h : .convDone raw ∈ decodeEvt v) :
    raw.toNat = v.toNat % 1024 := by
  obtain ⟨-, -, rfl⟩ : evtR v = false ∧ evtC v = true ∧ raw = evtV v := by simpa using mem_decodeEvt_iff.mp h
  simp [evtV]

/-! ## The obligations -/

/-- Settles O3: a descriptor with Z = 0 decodes to the operation that its fields stand for, and a vector to one of the lists
of `decodeEvt_cases`. -/
theorem decodeIsTotalOnTransactions : Obligations.DecodeIsTotalOnTransactions := by
  refine ⟨fun w notValid => decodeBus_of_busZ_ne_zero notValid, fun w valid => ?_, fun v => ?_, fun v noR noT noC => ?_⟩
  · exact ⟨_, decodeBus_of_busZ valid, (decodeBus_ok (decodeBus_of_busZ valid)).2.wf⟩
  · obtain ⟨-, h⟩ | ⟨-, -, -, h⟩ | ⟨-, -, -, h⟩ | ⟨-, -, -, h⟩ | ⟨-, -, -, h⟩ := decodeEvt_cases v <;> simp [h]
  · simp only [decodeEvt, evtR_eq, evtT_eq, evtC_eq, noR, noT, noC]
    rfl

/-- Settles O7: an operation that the decoder answers has the operands that the fields give, and its row bounds the offset
that they give it back. -/
theorem operandsAreAssembled : Obligations.OperandsAreAssembled := by
  refine ⟨fun w i h => ?_, fun w u h => ?_, fun w u h => ?_, fun w u h => ?_, fun w h => ?_, fun w h => ?_, fun w h => ?_,
    fun w h => ?_, fun v raw => raw_of_mem_decodeEvt⟩
  all_goals
    obtain ⟨-, row, operands, -⟩ := decodeBus_ok h
    simp only [InRow, HasOperands, busA_toNat, busD_toNat, BitVec.extractLsb'_toNat, Nat.shiftRight_eq_div_pow]
      at row operands ⊢
    omega

end Sys2Proof.Machine
end

section
/-! R82 (spec/30_encoding.md): a row of the opcode map matches by fields, and the row of a decoded operation is the first that
matches. -/

namespace Sys2Proof.Machine

open Sys2Proof.Safety

/-! ## Masks that keep or drop whole fields -/

section
variable {n : Nat} {x m p : BitVec n}

theorem and_eq_iff_of_kept (kept : m = BitVec.allOnes n) : x &&& m = p ↔ x = p := by
  rw [kept, BitVec.and_allOnes]

theorem and_eq_iff_of_dropped (dropped : m = 0#n) (clear : p = 0#n) : x &&& m = p ↔ True := by
  simp [dropped, clear]

end

/-- Two words that agree on a field and on all bits below it agree up to its end. -/
theorem extractLsb'_zero_eq_of_field {n k l m : Nat} {x y : BitVec n} (field : x.extractLsb' k l = y.extractLsb' k l)
    (below : x.extractLsb' 0 k = y.extractLsb' 0 k) (width : m = l + k := by rfl) :
    x.extractLsb' 0 m = y.extractLsb' 0 m := by
  subst width
  have joined (z : BitVec n) : z.extractLsb' k l ++ z.extractLsb' 0 k = z.extractLsb' 0 (l + k) :=
    BitVec.extractLsb'_append_extractLsb'_eq_extractLsb' (Nat.zero_add k).symm
  rw [← joined x, ← joined y, field, below]

/-- A masked descriptor by fields, cut wherever a mask of R82 begins or ends. -/
theorem busWord_and_eq_iff {w m p : BusWord} :
    w &&& m = p ↔
      w.extractLsb' 31 1 &&& m.extractLsb' 31 1 = p.extractLsb' 31 1 ∧
      w.extractLsb' 24 7 &&& m.extractLsb' 24 7 = p.extractLsb' 24 7 ∧
      w.extractLsb' 22 2 &&& m.extractLsb' 22 2 = p.extractLsb' 22 2 ∧
      w.extractLsb' 21 1 &&& m.extractLsb' 21 1 = p.extractLsb' 21 1 ∧
      w.extractLsb' 18 3 &&& m.extractLsb' 18 3 = p.extractLsb' 18 3 ∧
      w.extractLsb' 17 1 &&& m.extractLsb' 17 1 = p.extractLsb' 17 1 ∧
      w.extractLsb' 16 1 &&& m.extractLsb' 16 1 = p.extractLsb' 16 1 ∧
      w.extractLsb' 0 16 &&& m.extractLsb' 0 16 = p.extractLsb' 0 16 := by
  simp only [← BitVec.extractLsb'_and]
  refine ⟨fun h => by simp [h], fun ⟨f31, f24, f22, f21, f18, f17, f16, f0⟩ => ?_⟩
  have whole : (w &&& m).extractLsb' 0 32 = p.extractLsb' 0 32 :=
    extractLsb'_zero_eq_of_field f31 <| extractLsb'_zero_eq_of_field f24 <| extractLsb'_zero_eq_of_field f22 <|
      extractLsb'_zero_eq_of_field f21 <| extractLsb'_zero_eq_of_field f18 <| extractLsb'_zero_eq_of_field f17 <|
      extractLsb'_zero_eq_of_field f16 f0
  rwa [BitVec.extractLsb'_eq_self, BitVec.extractLsb'_eq_self] at whole

/-- A masked vector by fields. -/
theorem evtWord_and_eq_iff {v m p : EvtWord} :
    v &&& m = p ↔
      v.extractLsb' 12 1 &&& m.extractLsb' 12 1 = p.extractLsb' 12 1 ∧
      v.extractLsb' 11 1 &&& m.extractLsb' 11 1 = p.extractLsb' 11 1 ∧
      v.extractLsb' 10 1 &&& m.extractLsb' 10 1 = p.extractLsb' 10 1 ∧
      v.extractLsb' 0 10 &&& m.extractLsb' 0 10 = p.extractLsb' 0 10 := by
  simp only [← BitVec.extractLsb'_and]
  refine ⟨fun h => by simp [h], fun ⟨f12, f11, f10, f0⟩ => ?_⟩
  have whole : (v &&& m).extractLsb' 0 13 = p.extractLsb' 0 13 :=
    extractLsb'_zero_eq_of_field f12 <| extractLsb'_zero_eq_of_field f11 <| extractLsb'_zero_eq_of_field f10 f0
  rwa [BitVec.extractLsb'_eq_self, BitVec.extractLsb'_eq_self] at whole

/-! ## BUS rows -/

theorem busW_eq_true_iff {w : BusWord} : busW w = true ↔ w.toNat / 2147483648 % 2 = 1 := by
  rw [busW, beq_iff_eq, extractLsb'_eq_iff]
  rfl

theorem busW_eq_false_iff {w : BusWord} : busW w = false ↔ w.toNat / 2147483648 % 2 = 0 := by
  rw [← Bool.not_eq_true, busW_eq_true_iff]
  omega

theorem busZ_eq_zero_iff {w : BusWord} : busZ w = 0 ↔ w.toNat / 16777216 % 128 = 0 := by
  rw [busZ, extractLsb'_eq_iff]
  rfl

/-- `InRow` says what the match and mask of a row say: per row, each mask keeps a field whole or drops it. -/
theorem matches_iff_inRow {i : Instr} {r : BusRow} (h : busRow i = some r) (w : BusWord) :
    r.matches w ↔ busZ w = 0 ∧ InRow (busW w) (busA w) (busD w) i := by
  rw [BusRow.matches, busWord_and_eq_iff]
  cases i <;> cases h <;>
    simp (disch := decide) only [and_eq_iff_of_kept, and_eq_iff_of_dropped, BitVec.reduceExtractLsb', extractLsb'_eq_iff,
      BitVec.reduceToNat, and_true, true_and, InRow, busW_eq_true_iff, busW_eq_false_iff, busZ_eq_zero_iff, busA_toNat,
      busD_toNat] <;>
    omega

theorem exists_busRow_of_inRow {wr : Bool} {a : Offset} {d : BusData} {i : Instr} (row : InRow wr a d i) :
    ∃ r, busRow i = some r := by
  cases i with
  | reset | convDone | tick | xformDone => exact row.elim
  | _ => exact ⟨_, rfl⟩

/-- The rows of R82 for BUS operations. -/
def busRows : List BusRow :=
  [.cmdNop, .cmdArm, .cmdStart, .cmdClrerr, .cmdRsvd 0, .wrOther 0 0, .rdCmd, .rdStatus, .rdFill, .rdErr, .rdCalofs,
    .rdWin 0, .rdBinlo 0, .rdBinhi 0, .rdBinc 0, .rdRsvd 0].filterMap busRow

theorem busRow_mem_busRows {i : Instr} {r : BusRow} (h : busRow i = some r) : r ∈ busRows := by
  cases i <;> cases h <;> decide

theorem one_le_priority {i : Instr} {r : BusRow} (h : busRow i = some r) : 1 ≤ r.priority :=
  (by decide : ∀ p ∈ busRows, 1 ≤ p.priority) r (busRow_mem_busRows h)

/-- Two rows of one priority ask different values of a bit that both fix. -/
theorem busRows_disjoint : ∀ p ∈ busRows, ∀ q ∈ busRows, q.priority = p.priority →
    q.pattern &&& p.mask = p.pattern &&& q.mask → q = p := by
  decide

theorem busRow_eq_of_matches {i j : Instr} {p q : BusRow} {w : BusWord} (hi : busRow i = some p) (hj : busRow j = some q)
    (matchP : p.matches w) (matchQ : q.matches w) (same : q.priority = p.priority) : q = p := by
  refine busRows_disjoint p (busRow_mem_busRows hi) q (busRow_mem_busRows hj) same ?_
  rw [← matchP, ← matchQ, BitVec.and_assoc, BitVec.and_comm q.mask, ← BitVec.and_assoc]

/-- Fields that stand for an operation lie in no row of an earlier priority: an operation of priority 2 or 3 is well formed
only on what the rows before its own leave over. -/
theorem priority_le_of_inRow {wr : Bool} {a : Offset} {d : BusData} {i j : Instr} {p q : BusRow}
    (hi : busRow i = some p) (hj : busRow j = some q) (op : StandsFor wr a d i) (inRow : InRow wr a d j) :
    p.priority ≤ q.priority := by
  obtain ⟨row, operands, wf⟩ := op
  cases i with
  | cmdNop | cmdArm | cmdStart | cmdClrerr | rdCmd | rdStatus | rdFill | rdErr | rdCalofs | rdWin | rdBinlo | rdBinhi
  | rdBinc => cases hi; exact one_le_priority hj
  | cmdRsvd | wrOther | rdRsvd =>
    cases hi
    simp only [InRow, HasOperands] at row operands
    simp only [Instr.wf, operands, isReservedCommand_iff, Bool.not_eq_true', ← Bool.not_eq_true, isCmdOffset_iff,
      isReservedOffset_iff] at wf
    cases j <;> cases hj <;> simp only [InRow, row] at inRow <;> grind
  | reset | convDone | tick | xformDone => cases hi

/-- The row of a decoded operation is the one that R82 takes: it matches, none before it does, and none beside it. -/
theorem decodeBus_row {w : BusWord} {i : Instr} (h : decodeBus w = .ok i) :
    ∃ r, busRow i = some r ∧ r.matches w ∧ ∀ (j : Instr) (q : BusRow), busRow j = some q → q.matches w →
      r.priority ≤ q.priority ∧ (q.priority = r.priority → q = r) := by
  obtain ⟨valid, op⟩ := decodeBus_ok h
  obtain ⟨r, hr⟩ := exists_busRow_of_inRow op.row
  have matchR := (matches_iff_inRow hr w).mpr ⟨valid, op.row⟩
  refine ⟨r, hr, matchR, fun j q hq matchQ => ⟨?_, busRow_eq_of_matches hr hq matchR matchQ⟩⟩
  exact priority_le_of_inRow hr hq op ((matches_iff_inRow hq w).mp matchQ).2

/-! ## EVT rows -/

theorem bit_beq_one_eq_false {b : BitVec 1} : (b == 1) = false ↔ b = 0 := by
  revert b
  decide

/-- The row of RESET. -/
theorem match_reset_iff {v : EvtWord} : v &&& 0x1000 = 0x1000 ↔ evtR v = true := by
  simp (disch := decide) only [evtWord_and_eq_iff, and_eq_iff_of_kept, and_eq_iff_of_dropped, and_true, evtR, beq_iff_eq]
  rfl

/-- The row of CONV_DONE. -/
theorem match_convDone_iff {v : EvtWord} : v &&& 0x1400 = 0x0400 ↔ evtR v = false ∧ evtC v = true := by
  simp (disch := decide) only [evtWord_and_eq_iff, and_eq_iff_of_kept, and_eq_iff_of_dropped, and_true, true_and, evtR,
    evtC, beq_iff_eq, bit_beq_one_eq_false]
  rfl

/-- The row of TICK. -/
theorem match_tick_iff {v : EvtWord} : v &&& 0x1800 = 0x0800 ↔ evtR v = false ∧ evtT v = true := by
  simp (disch := decide) only [evtWord_and_eq_iff, and_eq_iff_of_kept, and_eq_iff_of_dropped, and_true, evtR, evtT,
    beq_iff_eq, bit_beq_one_eq_false]
  rfl

theorem decodeEvt_row {v : EvtWord} {i : Instr} (h : i ∈ decodeEvt v) : ∃ r, evtRow i = some r ∧ r.matches v := by
  obtain ⟨r, rfl⟩ | ⟨notR, c, rfl⟩ | ⟨notR, t, rfl⟩ := mem_decodeEvt_iff.mp h
  · exact ⟨_, rfl, match_reset_iff.mpr r⟩
  · exact ⟨_, rfl, match_convDone_iff.mpr ⟨notR, c⟩⟩
  · exact ⟨_, rfl, match_tick_iff.mpr ⟨notR, t⟩⟩

/-- Settles O4: `decodeBus_row` for descriptors, and for vectors each row is the condition under which R77 gives its
operation. -/
theorem decodeFollowsTheOpcodeMap : Obligations.DecodeFollowsTheOpcodeMap := by
  refine ⟨fun w i => decodeBus_row, fun v i => decodeEvt_row, fun v h => ?_, fun v h => ?_, fun v h => ?_, rfl, rfl, rfl⟩
  · exact if_pos (match_reset_iff.mp h)
  · obtain ⟨notR, c⟩ := match_convDone_iff.mp h
    exact mem_decodeEvt_iff.mpr (.inr (.inl ⟨notR, c, rfl⟩))
  · obtain ⟨notR, t⟩ := match_tick_iff.mp h
    exact mem_decodeEvt_iff.mpr (.inr (.inr ⟨notR, t, rfl⟩))

end Sys2Proof.Machine
end

section
/-! R77 and R74 (spec/30_encoding.md): the order of a vector's operations, and the reserved commands. -/

namespace Sys2Proof.Machine

/-- A step performs the operation that the present cycle holds next. -/
theorem step_of_fetch {s : State} {c left : Cycle} {rest : List Cycle} {i : Instr} (present : s.agenda = c :: rest)
    (fetched : c.fetch = .op i left) : step s = exec i { s with agenda := left.before rest } := by
  simp only [step, present, fetched]

/-- A vector with C = T = 1 gives CONV_DONE and leaves the vector of T alone. -/
theorem fetch_convDone_and_tick {v : EvtWord} (notR : evtR v = false) (c : evtC v = true) (t : evtT v = true) :
    (Cycle.of (.evt v)).fetch = .op (.convDone (evtV v)) (Cycle.of (.evt 0x0800)) := by
  have left : evtLeft v = 0x0800 := by
    simp only [evtLeft, notR, c, t]
    rfl
  simp [Cycle.fetch, Cycle.of, decodeEvt, notR, c, t, left]

/-- Settles O5: the decoder's list by the bits R, C and T, and two steps by what each cycle holds next. -/
theorem eventVectorsDecodeInOrder : Obligations.EventVectorsDecodeInOrder := by
  intro v
  rw [← evtR_eq, ← evtC_eq, ← evtT_eq]
  refine ⟨fun r => if_pos r, fun notR c notT => ?_, fun notR notC t => ?_,
    fun notR c t => ⟨?_, fun s rest present => ⟨?_, fun u onlyTick => ?_⟩⟩⟩
  · simp [decodeEvt, notR, c, notT, evtV]
  · simp [decodeEvt, notR, notC, t]
  · simp [decodeEvt, notR, c, t, evtV]
  · exact step_of_fetch present (fetch_convDone_and_tick notR c t)
  · exact step_of_fetch onlyTick rfl

theorem decodeCommand_of_reserved {d : BusData} (reserved : 4 ≤ d.toNat) : decodeCommand d = .cmdRsvd d := by
  rw [decodeCommand_eq]
  simp (disch := omega) only [if_neg]

/-- Settles O41: D[15:4] other than 0 or OP of 4 and more make the word at least 4, and `raise` records the first error. -/
theorem reservedCommandsRaiseErrorOne : Obligations.ReservedCommandsRaiseErrorOne := by
  intro s a d cmd reserved
  refine ⟨?_, s.epoch + 1, congrArg Host.Outcome.next (s.begin.raise_eq .rsvdCmd)⟩
  simp [decodeBus_of_busZ, isCmdOffset_iff.mpr cmd, decodeCommand_of_reserved (show 4 ≤ d.toNat by omega)]

end Sys2Proof.Machine
end

section
/-! R100 to R106 (spec/40_acquisition.md): TICK and CONV_DONE by their branches, the sample of a raw reading, and what every
other operation leaves of the acquisition. -/

namespace Sys2Proof.Machine

open Sys2Proof.Safety

/-! ## Samples -/

theorem sampleValue_bounds (p : Params) (raw : RawReading) :
    -8184 ≤ sampleValue p raw ∧ sampleValue p raw ≤ 8184 := by
  have rawBound := raw.isLt
  have calBound := p.calOffset.isLt
  simp only [sampleValue, calOffset]
  omega

/-- The 16-bit pattern loses nothing of the sample. -/
@[simp] theorem toInt_sample (p : Params) (raw : RawReading) : (sample p raw).toInt = sampleValue p raw := by
  obtain ⟨lo, hi⟩ := sampleValue_bounds p raw
  exact BitVec.toInt_ofInt_eq_self (by decide) (by omega) (by omega)

/-- Settles O17: a difference of two 10-bit numbers times 8 fits 16 bits. -/
theorem sampleIsExact : Obligations.SampleIsExact := by
  intro p raw
  rw [toInt_sample]
  exact ⟨rfl, sampleValue_bounds p raw⟩

/-! ## TICK -/

section
variable {s : State}

theorem exec_tick_of_accepted (sampling : s.sampling = true) (free : s.pending = false) :
    exec .tick s = .next { s.begin.emitConvReq with pending := true } := by
  simp [exec, execTick, sampling, free]

theorem exec_tick_of_ignored (ignored : s.sampling = false ∨ s.pending = true) : exec .tick s = .next s.begin := by
  obtain frozen | inFlight := ignored
  · exact if_pos frozen
  · simp [exec, execTick, inFlight]

/-! ## CONV_DONE -/

variable {raw : RawReading}

theorem exec_convDone_of_ignored (idle : s.pending = false) : exec (.convDone raw) s = .next s.begin := if_pos idle

theorem exec_convDone_of_not_last (inFlight : s.pending = true) (notLast : s.fill ≠ 31) :
    exec (.convDone raw) s =
      .next { s.begin.writeWin s.fill.toFin (sample s.cfg raw) with pending := false, fill := s.fill + 1 } :=
  (if_neg (by simp [inFlight])).trans (if_neg notLast)

theorem exec_convDone_of_last (inFlight : s.pending = true) (last : s.fill = 31) :
    exec (.convDone raw) s = .next (State.windowFull { s.begin.writeWin 31 (sample s.cfg raw) with pending := false }) := by
  have slot : s.fill.toFin = (31 : Fin 32) := congrArg BitVec.toFin last
  rw [← slot]
  exact (if_neg (by simp [inFlight])).trans (if_pos last)

end

/-- Settles O15: the two branches of TICK. -/
theorem tickRequestsOneConversion : Obligations.TickRequestsOneConversion := by
  obtain ⟨-, -, -, -, tickRow, -⟩ := decodeFollowsTheOpcodeMap
  exact ⟨tickRow, fun s => ⟨fun ⟨sampling, free⟩ => ⟨s.epoch + 1, exec_tick_of_accepted sampling free⟩,
    fun ignored => ⟨s.epoch + 1, exec_tick_of_ignored ignored⟩⟩⟩

/-- Settles O16: the three branches of CONV_DONE; at slot 31 the slot FILL is the last one. -/
theorem conversionStoresTheSample : Obligations.ConversionStoresTheSample := by
  obtain ⟨-, -, -, convDoneRow, -⟩ := decodeFollowsTheOpcodeMap
  exact ⟨convDoneRow, fun s raw => ⟨fun idle => ⟨s.epoch + 1, exec_convDone_of_ignored idle⟩,
    fun inFlight notLast => ⟨s.epoch + 1, exec_convDone_of_not_last inFlight notLast⟩,
    fun inFlight last => ⟨s.epoch + 1, exec_convDone_of_last inFlight last⟩⟩⟩

/-! ## Every other operation -/

/-- The registers of the acquisition (R24 to R28) are those of another state. -/
structure SameAcquisition (s t : State) : Prop where
  ready : t.ready = s.ready
  sampling : t.sampling = s.sampling
  fill : t.fill = s.fill
  pending : t.pending = s.pending
  win : t.win = s.win
  winWritten : t.winWritten = s.winWritten

theorem SameAcquisition.refl (s : State) : SameAcquisition s s := ⟨rfl, rfl, rfl, rfl, rfl, rfl⟩

theorem SameAcquisition.trans {s t u : State} (st : SameAcquisition s t) (tu : SameAcquisition t u) :
    SameAcquisition s u :=
  ⟨tu.ready.trans st.ready, tu.sampling.trans st.sampling, tu.fill.trans st.fill, tu.pending.trans st.pending,
    tu.win.trans st.win, tu.winWritten.trans st.winWritten⟩

theorem sameAcquisition_begin_raise (s : State) (e : Err) : SameAcquisition s (s.begin.raise e) := by
  constructor <;> simp

/-- Everything an operation but RESET and CONV_DONE can do to the acquisition: nothing, or an accepted ARM or TICK. -/
theorem exec_acquisition_next {i : Instr} {s t : State} (notReset : i ≠ .reset) (notConv : ∀ raw, i ≠ .convDone raw)
    (h : exec i s = .next t) :
    SameAcquisition s t ∨
    (i = .cmdArm ∧ s.busy = false ∧ s.ready = true ∧
      t = { s.begin with ready := false, fill := 0, sampling := true }) ∨
    (i = .tick ∧ s.sampling = true ∧ s.pending = false ∧ t = { s.begin.emitConvReq with pending := true }) := by
  by_cases read : isRead i = true
  · obtain ⟨v, rfl⟩ := exec_read_next read h
    exact .inl ⟨rfl, rfl, rfl, rfl, rfl, rfl⟩
  cases i with
  | cmdNop | cmdClrerr | wrOther => cases h; exact .inl ⟨rfl, rfl, rfl, rfl, rfl, rfl⟩
  | cmdRsvd => cases h; exact .inl (sameAcquisition_begin_raise s _)
  | cmdArm =>
    obtain ⟨-, rfl⟩ | ⟨-, -, rfl⟩ | ⟨notBusy, ready, rfl⟩ := execCmdArm_next h
    · exact .inl (sameAcquisition_begin_raise s _)
    · exact .inl (sameAcquisition_begin_raise s _)
    · exact .inr (.inl ⟨rfl, notBusy, ready, rfl⟩)
  | cmdStart =>
    obtain ⟨-, rfl⟩ | ⟨-, -, rfl⟩ | ⟨-, -, rfl⟩ := execCmdStart_next h
    · exact .inl (sameAcquisition_begin_raise s _)
    · exact .inl (sameAcquisition_begin_raise s _)
    · exact .inl ⟨rfl, rfl, rfl, rfl, rfl, rfl⟩
  | xformDone =>
    obtain ⟨-, rfl⟩ := execXformDone_next h
    left
    constructor <;> simp
  | tick =>
    obtain ⟨-, rfl⟩ | ⟨sampling, free, rfl⟩ := execTick_next h
    · exact .inl ⟨rfl, rfl, rfl, rfl, rfl, rfl⟩
    · exact .inr (.inr ⟨rfl, sampling, free, rfl⟩)
  | reset => exact absurd rfl notReset
  | convDone raw => exact absurd rfl (notConv raw)
  | rdCmd | rdStatus | rdFill | rdErr | rdCalofs | rdWin | rdBinlo | rdBinhi | rdBinc | rdRsvd => exact absurd rfl read

/-- What each operation of a run keeps, the run keeps. -/
theorem runOps_keeps {P : State → Prop} {ops : List Instr}
    (keeps : ∀ i ∈ ops, ∀ s t, P s → exec i s = .next t → P t) {s t : State} (h : runOps ops s = some t) (start : P s) :
    P t := by
  induction ops generalizing s with
  | nil => cases h; exact start
  | cons i is ih =>
    obtain ⟨m, performed, rest⟩ := runOps_cons.mp h
    exact ih (fun j later => keeps j (.tail i later)) rest (keeps i (.head is) s m start performed)

/-- A conversion in flight and READY = 0 refuse both writers that `exec_acquisition_next` leaves. -/
theorem exec_sameAcquisition_of_pending {i : Instr} {s t : State} (notReset : i ≠ .reset)
    (notConv : ∀ raw, i ≠ .convDone raw) (inFlight : s.pending = true) (notReady : s.ready = false)
    (h : exec i s = .next t) : SameAcquisition s t := by
  obtain same | ⟨-, -, ready, -⟩ | ⟨-, -, free, -⟩ := exec_acquisition_next notReset notConv h
  · exact same
  · simp [notReady] at ready
  · simp [inFlight] at free

/-- PENDING = 1 goes with READY = 0 (I1 and I3 of R38). -/
theorem ready_eq_false_of_pending {s : State} (inv : Inv s) (inFlight : s.pending = true) : s.ready = false := by
  obtain ⟨opposes, -, pendingIsSampling, -⟩ := inv
  simpa [opposes] using pendingIsSampling inFlight

/-- Settles O21: the acquisition stays as it is, operation by operation, so that a TICK finds PENDING = 1. -/
theorem stalledConversionHangsTheBlock : Obligations.StalledConversionHangsTheBlock := by
  intro s t ops inv inFlight others run
  have notReady := ready_eq_false_of_pending inv inFlight
  have same : SameAcquisition s t := by
    refine runOps_keeps (P := SameAcquisition s) (fun i mem u v kept performed => ?_) run (.refl s)
    obtain ⟨notReset, notConv⟩ := others i mem
    exact kept.trans (exec_sameAcquisition_of_pending notReset notConv (kept.pending.trans inFlight)
      (kept.ready.trans notReady) performed)
  have stillInFlight : t.pending = true := same.pending.trans inFlight
  exact ⟨stillInFlight, same.fill, same.ready.trans notReady, same.win, t.begin,
    exec_tick_of_ignored (.inr stillInFlight), rfl, stillInFlight⟩

end Sys2Proof.Machine
end

section
/-! R144 to R149 (spec/41_transform.md): the accumulators, their exact sums, the overflow verdict and the magnitude of a bin. -/

namespace Sys2Proof.Machine

open Sys2Proof.Safety

section
variable (p : Params) (x : Window) (u : Nat)

/-! ## Accumulators (R146) -/

theorem reAcc_succ (k : Fin 32) :
    reAcc p x u (k.val + 1) = wrap32 (reAcc p x u k.val + x k * sine p ((u * k.val % 32 + 8) % 32)) := by
  rw [reAcc, prodCos, Fin.ofNat_val_eq_self, cidx, phase]

theorem imAcc_succ (k : Fin 32) :
    imAcc p x u (k.val + 1) = wrap32 (imAcc p x u k.val - x k * sine p (u * k.val % 32)) := by
  rw [imAcc, prodSin, Fin.ofNat_val_eq_self, sidx, phase]

/-! ## Exact sums (R147) -/

theorem reExact_eq_cosSum (n : Nat) : reExact p x u n = cosSum p x u n := by
  induction n with
  | zero => rfl
  | succ n ih => rw [reExact, ih, cosSum, cosSum, Finset.sum_range_succ, prodCos, cidx, phase]

theorem imExact_eq_neg_sinSum (n : Nat) : imExact p x u n = -sinSum p x u n := by
  induction n with
  | zero => rfl
  | succ n ih => rw [imExact, ih, sinSum, sinSum, Finset.sum_range_succ, neg_add', prodSin, sidx, phase]

theorem outside32_iff {v : Int} : outside32 v = true ↔ v < -2 ^ 31 ∨ 2 ^ 31 - 1 < v := by
  simp [outside32]

theorem leftRange_iff (n : Nat) :
    leftRange p x u n = true ↔
      ∃ k, 1 ≤ k ∧ k ≤ n ∧ (outside32 (reExact p x u k) = true ∨ outside32 (imExact p x u k) = true) := by
  induction n with
  | zero => exact ⟨fun left => absurd left Bool.false_ne_true, fun ⟨k, pos, le, _⟩ => by omega⟩
  | succ n ih =>
    rw [leftRange, Bool.or_eq_true, Bool.or_eq_true, ih, or_assoc]
    constructor
    · rintro (⟨k, pos, le, left⟩ | left)
      · exact ⟨k, pos, by omega, left⟩
      · exact ⟨n + 1, by omega, le_rfl, left⟩
    · rintro ⟨k, pos, le, left⟩
      obtain rfl | earlier : k = n + 1 ∨ k ≤ n := by omega
      · exact .inr left
      · exact .inl ⟨k, pos, earlier, left⟩

variable {p x u}

/-- While no partial sum has left the 32-bit range, no wrap has changed an accumulator. -/
theorem accumulators_exact_of_inside {n : Nat} (inside : leftRange p x u n = false) :
    reAcc p x u n = reExact p x u n ∧ imAcc p x u n = imExact p x u n := by
  induction n with
  | zero => exact ⟨rfl, rfl⟩
  | succ n ih =>
    obtain ⟨⟨before, reInside⟩, imInside⟩ :
        (leftRange p x u n = false ∧ outside32 (reExact p x u (n + 1)) = false) ∧
          outside32 (imExact p x u (n + 1)) = false := by
      simpa only [leftRange, Bool.or_eq_false_iff] using inside
    obtain ⟨re, im⟩ := ih before
    rw [reAcc, imAcc, re, im]
    exact ⟨wrap32_of_inside reInside, wrap32_of_inside imInside⟩

/-! ## Scaled accumulators (R148) -/

variable (p) in
/-- A 32-bit value divided by SCALE_DIV is -2^31 only where SCALE_DIV = 1, since its absolute value is at most 2^31. -/
theorem scaleDiv_eq_one_of_tdiv {a : Int} (lo : -2147483648 ≤ a) (hi : a ≤ 2147483647)
    (scaled : a.tdiv (scaleDiv p) = -2 ^ 31) : scaleDiv p = 1 := by
  have pos := scaleDiv_pos p
  have quotient : a.natAbs / (scaleDiv p).natAbs = 2147483648 := by
    have abs := congrArg Int.natAbs scaled
    rwa [Int.natAbs_tdiv] at abs
  have product := Nat.div_mul_le_self a.natAbs (scaleDiv p).natAbs
  rw [quotient] at product
  omega

/-- R13: truncating division by a divisor of at least 0 is the sign times the floor of the quotient of the absolute values. -/
theorem tdiv_eq_sign_mul {a d : Int} (nonneg : 0 ≤ d) : a.tdiv d = a.sign * (a.natAbs / d.toNat : Nat) := by
  obtain ⟨m, rfl⟩ := Int.eq_ofNat_of_zero_le nonneg
  have signed (n : Nat) : ((n / m : Nat) : Int) = (n : Int).sign * (n / m : Nat) := by
    cases n with
    | zero => simp
    | succ n => rw [Int.sign_natCast_of_ne_zero n.succ_ne_zero, one_mul]
  obtain ⟨n, rfl | rfl⟩ := a.eq_nat_or_neg
  · rw [← Int.ofNat_tdiv]
    exact signed n
  · rw [Int.neg_tdiv, ← Int.ofNat_tdiv, Int.sign_neg, Int.natAbs_neg, neg_mul]
    exact congrArg Neg.neg (signed n)

theorem natAbs_tdiv_le {a : Int} (lo : -2147483648 ≤ a) (hi : a ≤ 2147483647) (d : Int) :
    (tdiv a d).natAbs ≤ 2147483648 :=
  (Int.natAbs_tdiv_le_natAbs a d).trans (by omega)

variable (p x u)

theorem natAbs_reScaled_le : (reScaled p x u).natAbs ≤ 2147483648 := by
  obtain ⟨lo, hi⟩ := reAcc_range p x u 32
  rw [reScaled]
  exact natAbs_tdiv_le lo hi (scaleDiv p)

theorem natAbs_imScaled_le : (imScaled p x u).natAbs ≤ 2147483648 := by
  obtain ⟨lo, hi⟩ := imAcc_range p x u 32
  rw [imScaled]
  exact natAbs_tdiv_le lo hi (scaleDiv p)

/-! ## Magnitude and verdict (R147, R149) -/

theorem magnitude_le : magnitude p x u ≤ 2 ^ 30 := by
  have re := natAbs_reScaled_le p x u
  have im := natAbs_imScaled_le p x u
  rw [magnitude]
  omega

theorem binOverflow_iff :
    binOverflow p x u = true ↔
      leftRange p x u 32 = true ∨ (reAcc p x u 32).tdiv (scaleDiv p) = -2 ^ 31 ∨
        (imAcc p x u 32).tdiv (scaleDiv p) = -2 ^ 31 := by
  simp only [binOverflow, reScaled, imScaled, tdiv, Bool.or_eq_true, beq_iff_eq, or_assoc, Int.reducePow, Int.reduceNeg]

end

/-- Settles O27: one step of each accumulator at a slot of the window. -/
theorem accumulatorsFollowTheRecurrence : Obligations.AccumulatorsFollowTheRecurrence := by
  intro p x u
  exact ⟨rfl, rfl, fun k => ⟨reAcc_succ p x u k, imAcc_succ p x u k⟩⟩

/-- Settles O29: the model's partial sums are the exact ones; a verdict of 0 says that no wrap changed an accumulator. -/
theorem overflowVerdictIsExact : Obligations.OverflowVerdictIsExact := by
  intro p x u
  obtain ⟨reLo, reHi⟩ := reAcc_range p x u 32
  obtain ⟨imLo, imHi⟩ := imAcc_range p x u 32
  refine ⟨?_, ?_, fun noOverflow => ?_⟩
  · rw [binOverflow_iff, leftRange_iff]
    simp only [outside32_iff, reExact_eq_cosSum, imExact_eq_neg_sinSum, or_assoc]
  · rintro (re | im)
    · exact scaleDiv_eq_one_of_tdiv p reLo reHi re
    · exact scaleDiv_eq_one_of_tdiv p imLo imHi im
  · rw [← Bool.not_eq_true, binOverflow_iff, not_or, Bool.not_eq_true] at noOverflow
    obtain ⟨inside, -⟩ := noOverflow
    rw [← reExact_eq_cosSum, ← imExact_eq_neg_sinSum]
    exact accumulators_exact_of_inside inside

/-- Settles O30: SCALE_DIV is positive, and two absolute values of at most 2^31 make a bin of at most 2^30. -/
theorem magnitudeIsScaledAndBounded : Obligations.MagnitudeIsScaledAndBounded := by
  intro p x u
  have nonneg : 0 ≤ scaleDiv p := by have := scaleDiv_pos p; omega
  refine ⟨?_, ?_, ?_, magnitude_le p x u⟩
  · rw [reScaled, tdiv, tdiv_eq_sign_mul nonneg]
  · rw [imScaled, tdiv, tdiv_eq_sign_mul nonneg]
  · rw [magnitude]

end Sys2Proof.Machine
end

section
/-! R140, R141 and R143 (spec/41_transform.md): START by its branches, what XFORM_DONE publishes, and how a run ends. -/

namespace Sys2Proof.Machine

open Sys2Proof.Safety

/-! ## START -/

/-- A transaction that writes CMD decodes by its data word (R73). -/
theorem decodeBus_of_command {w : BusWord} (valid : busZ w = 0) (write : busW w = true) (cmd : (busA w).toNat < 2) :
    decodeBus w = .ok (decodeCommand (busD w)) := by
  simp [decodeBus_of_busZ valid, write, isCmdOffset_iff.mpr cmd]

theorem decodeBus_of_match_cmdStart {w : BusWord} (h : w &&& 0xFFFEFFFF = 0x80000002) : decodeBus w = .ok .cmdStart := by
  obtain ⟨valid, write, cmd, data⟩ := (matches_iff_inRow (i := .cmdStart) rfl w).mp h
  simp [decodeBus_of_command valid write cmd, decodeCommand_eq, data]

section
variable {s : State}

theorem exec_cmdStart_of_busy (busy : s.busy = true) : exec .cmdStart s = .next (s.begin.raise .startBusy) := if_pos busy

theorem exec_cmdStart_of_not_ready (idle : s.busy = false) (notReady : s.ready = false) :
    exec .cmdStart s = .next (s.begin.raise .startNotReady) :=
  (if_neg (by simp [idle])).trans (if_pos notReady)

theorem exec_cmdStart_of_accepted (idle : s.busy = false) (ready : s.ready = true) :
    exec .cmdStart s = .next { s.begin with busy := true, done := false, ovf := false } :=
  (if_neg (by simp [idle])).trans (if_neg (by simp [ready]))

end

/-- Settles O25: the three branches of START; a refusal is `begin` and then `raise`. -/
theorem startBeginsARun : Obligations.StartBeginsARun := by
  refine ⟨fun w => decodeBus_of_match_cmdStart, fun s => ⟨fun busy => ⟨s.epoch + 1, ?_⟩,
    fun idle notReady => ⟨s.epoch + 1, ?_⟩, fun idle ready => ⟨s.epoch + 1, exec_cmdStart_of_accepted idle ready⟩⟩⟩
  · rw [exec_cmdStart_of_busy busy, State.raise_eq]
    rfl
  · rw [exec_cmdStart_of_not_ready idle notReady, State.raise_eq]
    rfl

/-! ## XFORM_DONE -/

theorem exec_xformDone_of_busy {s : State} (busy : s.busy = true) :
    exec .xformDone s = .next { s.publish with convReq := false, readData := none, epoch := s.epoch + 1 } :=
  if_neg (by simp [busy])

theorem exec_xformDone_of_idle {s : State} (idle : s.busy = false) :
    exec .xformDone s = .refused .xformDoneNotEnabled := if_pos idle

/-- A magnitude needs no more than 31 of the 32 bits of a bin. -/
theorem toInt_ofNat_magnitude (p : Params) (x : Window) (u : Nat) :
    (BitVec.ofNat 32 (magnitude p x u)).toInt = (magnitude p x u : Int) := by
  have bound := magnitude_le p x u
  generalize magnitude p x u = m at bound ⊢
  exact BitVec.toInt_ofNat' m |>.trans (Int.bmod_eq_of_le (by omega) (by omega))

/-- Stated for every f, so that no tactic unrolls the sums of 16 bins. -/
theorem any_range_iff (n : Nat) (f : Nat → Bool) : (List.range n).any f = true ↔ ∃ u : Fin n, f u.val = true := by
  simp only [List.any_eq_true, List.mem_range, Fin.exists_iff, exists_prop]

theorem runOverflow_iff (p : Params) (x : Window) :
    runOverflow p x = true ↔ ∃ u : Fin 16, binOverflow p x u.val = true := by
  unfold runOverflow
  exact any_range_iff 16 (binOverflow p x)

/-- Settles O26: `publish` gives the bins and the verdict, and leaves the frame. -/
theorem xformDonePublishesTheBins : Obligations.XformDonePublishesTheBins := by
  refine ⟨rfl, fun s => ⟨fun busy => ⟨_, exec_xformDone_of_busy busy, fun u => ?_, ?_, ?_⟩, exec_xformDone_of_idle⟩⟩
  · simp only [State.publish_bin, Vector.get_ofFn_eq, toInt_ofNat_magnitude]
  · simp only [State.publish_ovf, runOverflow_iff]
  · simp only [State.publish, and_self]

/-! ## The end of a run -/

/-- The registers of the transform (R29 to R32) are those of another state. -/
structure SameTransform (s t : State) : Prop where
  busy : t.busy = s.busy
  done : t.done = s.done
  ovf : t.ovf = s.ovf
  bin : t.bin = s.bin

theorem sameTransform_begin_raise (s : State) (e : Err) : SameTransform s (s.begin.raise e) := by
  constructor <;> simp

/-- Everything an operation but RESET and XFORM_DONE can do to the transform: nothing, or an accepted START. -/
theorem exec_transform_next {i : Instr} {s t : State} (notReset : i ≠ .reset) (notDone : i ≠ .xformDone)
    (h : exec i s = .next t) :
    SameTransform s t ∨
    (i = .cmdStart ∧ s.busy = false ∧ s.ready = true ∧
      t = { s.begin with busy := true, done := false, ovf := false }) := by
  by_cases read : isRead i = true
  · obtain ⟨v, rfl⟩ := exec_read_next read h
    exact .inl ⟨rfl, rfl, rfl, rfl⟩
  cases i with
  | cmdNop | cmdClrerr | wrOther => cases h; exact .inl ⟨rfl, rfl, rfl, rfl⟩
  | cmdRsvd => cases h; exact .inl (sameTransform_begin_raise s _)
  | cmdArm =>
    obtain ⟨-, rfl⟩ | ⟨-, -, rfl⟩ | ⟨-, -, rfl⟩ := execCmdArm_next h
    · exact .inl (sameTransform_begin_raise s _)
    · exact .inl (sameTransform_begin_raise s _)
    · exact .inl ⟨rfl, rfl, rfl, rfl⟩
  | cmdStart =>
    obtain ⟨-, rfl⟩ | ⟨-, -, rfl⟩ | ⟨idle, ready, rfl⟩ := execCmdStart_next h
    · exact .inl (sameTransform_begin_raise s _)
    · exact .inl (sameTransform_begin_raise s _)
    · exact .inr ⟨rfl, idle, ready, rfl⟩
  | convDone => obtain ⟨-, rfl⟩ | ⟨-, -, rfl⟩ | ⟨-, -, rfl⟩ := execConvDone_next h <;> exact .inl ⟨rfl, rfl, rfl, rfl⟩
  | tick => obtain ⟨-, rfl⟩ | ⟨-, -, rfl⟩ := execTick_next h <;> exact .inl ⟨rfl, rfl, rfl, rfl⟩
  | reset => exact absurd rfl notReset
  | xformDone => exact absurd rfl notDone
  | rdCmd | rdStatus | rdFill | rdErr | rdCalofs | rdWin | rdBinlo | rdBinhi | rdBinc | rdRsvd => exact absurd rfl read

/-- A run is ended by nothing but RESET and XFORM_DONE. -/
theorem exec_keeps_busy {i : Instr} {s t : State} (notReset : i ≠ .reset) (notDone : i ≠ .xformDone)
    (h : exec i s = .next t) (busy : s.busy = true) : t.busy = true := by
  obtain same | ⟨-, -, -, rfl⟩ := exec_transform_next notReset notDone h
  · exact same.busy.trans busy
  · rfl

/-- A flag that is 1 and later 0 is 1 up to a last position. -/
theorem exists_last_true {f : Nat → Bool} {n : Nat} (start : f n = true) (stop : ∃ m, n ≤ m ∧ f m = false) :
    ∃ k, n ≤ k ∧ (∀ j, n ≤ j → j ≤ k → f j = true) ∧ f (k + 1) = false := by
  obtain ⟨le, firstFalse⟩ := Nat.find_spec stop
  have before (j : Nat) (lo : n ≤ j) (hi : j < Nat.find stop) : f j = true := by
    simpa [lo] using Nat.find_min stop hi
  have later : n ≠ Nat.find stop := fun same => by simp [← same, start] at firstFalse
  obtain ⟨k, succ⟩ : ∃ k, Nat.find stop = k + 1 := Nat.exists_eq_succ_of_ne_zero (by omega)
  rw [succ] at firstFalse
  exact ⟨k, by omega, fun j lo hi => before j lo (by omega), firstFalse⟩

/-- Settles O37: fairness gives a last step m of the run, and the operation that ends BUSY there can only be RESET or
XFORM_DONE. -/
theorem everyRunCompletesOrIsReset : Obligations.EveryRunCompletesOrIsReset := by
  intro ops run execution n busy
  refine ⟨⟨_, exec_xformDone_of_busy busy, by simp, by simp⟩, ?_⟩
  obtain ⟨m, le, stays, ended⟩ := exists_last_true (f := fun j => (run j).busy) busy (execution.fair n)
  refine ⟨m, le, stays, ?_⟩
  have performed := execution.follows m
  by_cases reset : ops m = .reset
  · exact .inr reset
  by_cases done : ops m = .xformDone
  · rw [done] at performed
    obtain ⟨-, published⟩ := execXformDone_next performed
    exact .inl ⟨done, by simp [published]⟩
  · simp [exec_keeps_busy reset done performed (stays m le le_rfl)] at ended

end Sys2Proof.Machine
end

section
/-! R152 and R195 (spec/41_transform.md, spec/42_host_interface.md): the clipped view of a bin and its read. -/

namespace Sys2Proof.Machine

/-- The row of RD_BINC reads the bin that A[4:1] names (R78). -/
theorem decodeRead_of_binc {a : Offset} (block : a.toNat / 32 = 6) : decodeRead a = .rdBinc (a.extractLsb' 1 4).toFin := by
  simp only [decodeRead, extractLsb'_eq_iff, BitVec.reduceToNat]
  simp (disch := omega) only [if_pos, if_neg]

theorem decodeBus_of_match_rdBinc {w : BusWord} (h : w &&& 0xFFE00000 = 0x00C00000) :
    decodeBus w = .ok (.rdBinc (w.extractLsb' 17 4).toFin) := by
  obtain ⟨valid, read, block⟩ := (matches_iff_inRow (i := .rdBinc 0) rfl w).mp h
  have operand : (busA w).extractLsb' 1 4 = w.extractLsb' 17 4 := extractLsb'_of_extractLsb' w 16 8 (by decide)
  simp [decodeBus_of_busZ valid, read, decodeRead_of_binc block, operand]

theorem clip_bounds (v : Int) : 0 ≤ clip v ∧ clip v ≤ 14 := by
  rw [clip]
  omega

/-- The 16-bit register holds the clipped bin whole. -/
theorem State.toNat_bincWord (s : State) (u : Fin 16) : ((s.bincWord u).toNat : Int) = clip (s.bin.get u).toInt := by
  have bounds := clip_bounds (s.bin.get u).toInt
  rw [State.bincWord, State.binc, BitVec.toNat_ofInt]
  omega

/-- Settles O47: RD_BINC by its row, the clip by its bounds, and the read by the register it returns. -/
theorem clippedBinReads : Obligations.ClippedBinReads := by
  refine ⟨fun w => decodeBus_of_match_rdBinc, fun v => ⟨rfl, (clip_bounds v).1, (clip_bounds v).2, fun nonneg => ?_⟩,
    fun s u => ⟨s.bincWord u, rfl, s.toNat_bincWord u⟩⟩
  rw [clip, max_eq_left nonneg]

end Sys2Proof.Machine
end

section
/-! R73 to R76 (spec/30_encoding.md): the BUS decoder answers the operation that a descriptor's fields stand for, so that a
match and mask with its operands fix the operation. -/

namespace Sys2Proof.Machine

open Sys2Proof.Safety

theorem decodeRead_of_standsFor {a : Offset} {d : BusData} {i : Instr} (op : StandsFor false a d i) : decodeRead a = i := by
  obtain ⟨row, operands, wf⟩ := op
  have bound := a.isLt
  simp only [decodeRead, extractLsb'_eq_iff, BitVec.reduceToNat]
  cases i with
  | rdCmd | rdStatus | rdFill | rdErr | rdCalofs =>
    obtain ⟨-, register⟩ := row
    simp (disch := omega) only [if_pos, if_neg]
  | rdWin | rdBinc =>
    obtain ⟨-, block⟩ := row
    simp (disch := omega) only [if_pos, if_neg]
    exact congrArg _ (toFin_extractLsb'_eq a operands.symm)
  | rdBinlo | rdBinhi =>
    obtain ⟨-, block, half⟩ := row
    simp (disch := omega) only [if_pos, if_neg]
    exact congrArg _ (toFin_extractLsb'_eq a operands.symm)
  | rdRsvd =>
    obtain rfl : _ = a := operands
    have reserved := isReservedOffset_iff.mp wf
    simp (disch := omega) only [if_pos, if_neg]
  | cmdNop | cmdArm | cmdStart | cmdClrerr | cmdRsvd => exact absurd row.1 Bool.false_ne_true
  | wrOther => exact absurd row Bool.false_ne_true
  | reset | convDone | tick | xformDone => exact row.elim

theorem decodeWrite_of_standsFor {a : Offset} {d : BusData} {i : Instr} (op : StandsFor true a d i) :
    (if isCmdOffset a then decodeCommand d else .wrOther a d) = i := by
  obtain ⟨row, operands, wf⟩ := op
  cases i with
  | cmdNop | cmdArm | cmdStart | cmdClrerr =>
    obtain ⟨-, cmd, command⟩ := row
    simp [isCmdOffset_iff.mpr cmd, decodeCommand_eq, command]
  | cmdRsvd =>
    obtain rfl : _ = d := operands
    rw [if_pos (isCmdOffset_iff.mpr row.2), decodeCommand_of_reserved (isReservedCommand_iff.mp wf)]
  | wrOther =>
    obtain ⟨rfl, rfl⟩ := operands
    exact if_neg (by simpa [Instr.wf] using wf)
  | rdCmd | rdStatus | rdFill | rdErr | rdCalofs | rdWin | rdBinlo | rdBinhi | rdBinc =>
    exact absurd row.1.symm Bool.false_ne_true
  | rdRsvd => exact absurd row.symm Bool.false_ne_true
  | reset | convDone | tick | xformDone => exact row.elim

/-- With `decodeBus_ok`: a transaction decodes to exactly the operation that its fields stand for. -/
theorem decodeBus_of_standsFor {w : BusWord} {i : Instr} (valid : busZ w = 0)
    (op : StandsFor (busW w) (busA w) (busD w) i) : decodeBus w = .ok i := by
  rw [decodeBus_of_busZ valid]
  cases write : busW w <;> rw [write] at op
  · exact congrArg Except.ok (decodeRead_of_standsFor op)
  · exact congrArg Except.ok (decodeWrite_of_standsFor op)

theorem decodeBus_busDescriptor {wr : Bool} {a : Offset} {d : BusData} {i : Instr} (op : StandsFor wr a d i) :
    decodeBus (busDescriptor wr a d) = .ok i :=
  decodeBus_of_standsFor (busZ_busDescriptor wr a d) (by simpa using op)

/-- A descriptor that matches the row of an operation (R82) and gives its operands (R78) decodes to it. -/
theorem decodeBus_of_matches {w : BusWord} {i : Instr} {r : BusRow} (hr : busRow i = some r) (h : r.matches w)
    (wf : i.wf = true) (operands : HasOperands (busA w) (busD w) i) : decodeBus w = .ok i := by
  obtain ⟨valid, row⟩ := (matches_iff_inRow hr w).mp h
  exact decodeBus_of_standsFor valid ⟨row, operands, wf⟩

end Sys2Proof.Machine
end

section
/-! R181 to R183 and R186 (spec/42_host_interface.md): the commands but START, and the writes that are ignored. -/

namespace Sys2Proof.Machine

/-! ## ARM -/

section
variable {s : State}

theorem exec_cmdArm_of_busy (busy : s.busy = true) : exec .cmdArm s = .next (s.begin.raise .armBusy) := if_pos busy

theorem exec_cmdArm_of_not_ready (idle : s.busy = false) (notReady : s.ready = false) :
    exec .cmdArm s = .next (s.begin.raise .armNotReady) :=
  (if_neg (by simp [idle])).trans (if_pos notReady)

theorem exec_cmdArm_of_accepted (idle : s.busy = false) (ready : s.ready = true) :
    exec .cmdArm s = .next { s.begin with ready := false, fill := 0, sampling := true } :=
  (if_neg (by simp [idle])).trans (if_neg (by simp [ready]))

end

/-- Settles O38: the three branches of ARM; a refusal is `begin` and then `raise`. -/
theorem armRearmsAcquisition : Obligations.ArmRearmsAcquisition := by
  refine ⟨fun w h => decodeBus_of_matches (i := .cmdArm) rfl h rfl trivial, fun s => ⟨fun busy => ⟨s.epoch + 1, ?_⟩,
    fun idle notReady => ⟨s.epoch + 1, ?_⟩, fun idle ready => ⟨s.epoch + 1, exec_cmdArm_of_accepted idle ready⟩⟩⟩
  · rw [exec_cmdArm_of_busy busy, State.raise_eq]
    rfl
  · rw [exec_cmdArm_of_not_ready idle notReady, State.raise_eq]
    rfl

/-! ## NOP, CLRERR and the ignored writes -/

theorem exec_cmdNop (s : State) : exec .cmdNop s = .next s.begin := rfl

theorem exec_wrOther (s : State) (a : Offset) (d : BusData) : exec (.wrOther a d) s = .next s.begin := rfl

theorem exec_cmdClrerr (s : State) : exec .cmdClrerr s = .next s.begin.clearError := rfl

/-- Settles O39: an offset from 0x02 on is not one of CMD, and both operations are `begin` alone. -/
theorem nopAndOtherWritesChangeNothing : Obligations.NopAndOtherWritesChangeNothing := by
  refine ⟨fun w h => decodeBus_of_matches (i := .cmdNop) rfl h rfl trivial, fun s => ⟨s.epoch + 1, exec_cmdNop s⟩,
    fun s a d other => ⟨.wrOther a d, s.epoch + 1, decodeBus_busDescriptor (wrOther_standsFor ?_ d), rfl,
      exec_wrOther s a d⟩⟩
  rw [isCmdOffset_iff]
  omega

/-- Settles O40: CLRERR is `begin` and then `clearError`, whatever the state. -/
theorem clrerrClearsTheError : Obligations.ClrerrClearsTheError :=
  ⟨fun _ h => decodeBus_of_matches (i := .cmdClrerr) rfl h rfl trivial, fun s => ⟨s.epoch + 1, exec_cmdClrerr s⟩⟩

end Sys2Proof.Machine
end

section
/-! R187 to R194 and R196 (spec/42_host_interface.md): the register reads, each a response with the value of its register. -/

namespace Sys2Proof.Machine

open Sys2Proof.Safety

/-! ## The values of the registers -/

section
variable (s : State) (u : Fin 16)

theorem State.toNat_fillWord : s.fillWord.toNat = s.fill.toNat := BitVec.toNat_setWidth_of_le (by decide)

theorem State.toNat_errWord : s.errWord.toNat = s.errcode.toNat := BitVec.toNat_setWidth_of_le (by decide)

theorem State.toNat_calofsWord : s.calofsWord.toNat = s.cfg.calOffset.toNat := BitVec.toNat_setWidth_of_le (by decide)

theorem State.toNat_binLo : (s.binLo u).toNat = (s.bin.get u).toNat % 65536 := by
  simp [State.binLo]

theorem State.toNat_binHi : (s.binHi u).toNat = (s.bin.get u).toNat / 65536 := by
  have bound := (s.bin.get u).isLt
  rw [State.binHi, BitVec.extractLsb'_toNat, Nat.shiftRight_eq_div_pow]
  omega

variable {s}

/-- The bounds of I6 on the bin as an unsigned number, which its halves are cut from. -/
theorem toNat_bin_le (bounded : BinsBounded s) : (s.bin.get u).toNat ≤ 2 ^ 30 := by
  obtain ⟨nonneg, le⟩ := bounded u
  have bound := (s.bin.get u).isLt
  rw [BitVec.toInt_eq_toNat_cond] at nonneg le
  split at nonneg <;> omega

end

/-! ## The reads -/

/-- Settles O42: both operations respond with 0, and a reserved offset stands for RD_RSVD. -/
theorem cmdAndReservedReadZero : Obligations.CmdAndReservedReadZero :=
  ⟨fun _ h => decodeBus_of_matches (i := .rdCmd) rfl h rfl trivial, fun _ => rfl,
    fun _ _ _ reserved => ⟨decodeBus_busDescriptor ⟨rfl, rfl, isReservedOffset_iff.mpr reserved⟩, rfl⟩⟩

/-- Settles O43: the bits of the status word by position; past the six flags there is none. -/
theorem statusReadsTheFlags : Obligations.StatusReadsTheFlags := by
  refine ⟨fun w h => decodeBus_of_matches (i := .rdStatus) rfl h rfl trivial, fun s => ⟨s.statusWord, rfl, ?_⟩⟩
  simp only [State.statusWord_getLsbD]
  exact ⟨rfl, rfl, rfl, rfl, rfl, rfl, fun j above => List.getD_eq_default _ _ above⟩

/-- Settles O44: each read responds with a register that its 16-bit word holds whole. -/
theorem fillErrAndCalofsReadTheirValues : Obligations.FillErrAndCalofsReadTheirValues :=
  ⟨fun _ h => decodeBus_of_matches (i := .rdFill) rfl h rfl trivial,
    fun _ h => decodeBus_of_matches (i := .rdErr) rfl h rfl trivial,
    fun _ h => decodeBus_of_matches (i := .rdCalofs) rfl h rfl trivial,
    fun s => ⟨⟨s.fillWord, rfl, s.toNat_fillWord⟩, ⟨s.errWord, rfl, s.toNat_errWord⟩,
      ⟨s.calofsWord, rfl, s.toNat_calofsWord⟩⟩⟩

/-- Settles O45: A[5:1] is the slot of RD_WIN, and a written slot reads as WIN holds it. -/
theorem windowReadsTheSample : Obligations.WindowReadsTheSample := by
  refine ⟨fun w h => decodeBus_of_matches (i := .rdWin _) rfl h rfl ?_,
    fun s i => ⟨s.readWin i, rfl, State.readWin_of_written⟩⟩
  simp only [HasOperands, toFin_extractLsb'_val, busA_toNat]
  omega

/-- Settles O46: A[5:2] is the bin of both reads, whose halves are the quotient and the remainder by 2^16. -/
theorem binHalvesRead : Obligations.BinHalvesRead := by
  have bin (w : BusWord) : (w.extractLsb' 18 4).toFin.val = (busA w).toNat / 4 % 16 := by
    rw [toFin_extractLsb'_val, busA_toNat]
    omega
  refine ⟨fun w h => decodeBus_of_matches (i := .rdBinlo _) rfl h rfl (bin w),
    fun w h => decodeBus_of_matches (i := .rdBinhi _) rfl h rfl (bin w),
    fun s u => ⟨s.binLo u, s.binHi u, rfl, rfl, ?_, fun inv => ?_⟩⟩
  · rw [State.toNat_binLo, State.toNat_binHi]
    omega
  · obtain ⟨-, -, -, -, -, bounded, -⟩ := inv
    have le := toNat_bin_le u bounded
    rw [State.toNat_binHi]
    omega

end Sys2Proof.Machine
end

section
/-! R220 and R222 (spec/60_exceptions.md): the commands that raise an error, and what every other operation does to ERRCODE. -/

namespace Sys2Proof.Machine

open Sys2Proof.Safety

/-- The error table (R220): the error that an operation raises in a state. BUSY is tested before READY (R140, R181). -/
inductive Raises (s : State) : Instr → Err → Prop where
  | rsvdCmd (d : BusData) : Raises s (.cmdRsvd d) .rsvdCmd
  | startBusy (busy : s.busy = true) : Raises s .cmdStart .startBusy
  | startNotReady (idle : s.busy = false) (notReady : s.ready = false) : Raises s .cmdStart .startNotReady
  | armBusy (busy : s.busy = true) : Raises s .cmdArm .armBusy
  | armNotReady (idle : s.busy = false) (notReady : s.ready = false) : Raises s .cmdArm .armNotReady

section
variable {s t : State} {i : Instr} {e : Err}

theorem exec_of_raises (raises : Raises s i e) : exec i s = .next (s.begin.raise e) := by
  cases raises with
  | rsvdCmd => rfl
  | startBusy busy => exact exec_cmdStart_of_busy busy
  | startNotReady idle notReady => exact exec_cmdStart_of_not_ready idle notReady
  | armBusy busy => exact exec_cmdArm_of_busy busy
  | armNotReady idle notReady => exact exec_cmdArm_of_not_ready idle notReady

theorem exec_records_of_raises (clear : s.errcode = 0) (raises : Raises s i e) :
    ∃ t, exec i s = .next t ∧ t.errcode = e.code :=
  ⟨_, exec_of_raises raises, by simp [State.raise_errcode, clear]⟩

/-- Everything an operation can do to ERRCODE: nothing, clear it, or raise the error of the table. -/
theorem exec_errcode_next (h : exec i s = .next t) :
    t.errcode = s.errcode ∨ ((i = .reset ∨ i = .cmdClrerr) ∧ t.errcode = 0) ∨
    (∃ e, Raises s i e ∧ t = s.begin.raise e) := by
  by_cases read : isRead i = true
  · obtain ⟨v, rfl⟩ := exec_read_next read h
    exact .inl rfl
  cases i with
  | cmdNop | wrOther => cases h; exact .inl rfl
  | reset => cases h; exact .inr (.inl ⟨.inl rfl, rfl⟩)
  | cmdClrerr => cases h; exact .inr (.inl ⟨.inr rfl, rfl⟩)
  | cmdRsvd d => cases h; exact .inr (.inr ⟨_, .rsvdCmd d, rfl⟩)
  | cmdStart =>
    obtain ⟨busy, rfl⟩ | ⟨idle, notReady, rfl⟩ | ⟨-, -, rfl⟩ := execCmdStart_next h
    · exact .inr (.inr ⟨_, .startBusy busy, rfl⟩)
    · exact .inr (.inr ⟨_, .startNotReady idle notReady, rfl⟩)
    · exact .inl rfl
  | cmdArm =>
    obtain ⟨busy, rfl⟩ | ⟨idle, notReady, rfl⟩ | ⟨-, -, rfl⟩ := execCmdArm_next h
    · exact .inr (.inr ⟨_, .armBusy busy, rfl⟩)
    · exact .inr (.inr ⟨_, .armNotReady idle notReady, rfl⟩)
    · exact .inl rfl
  | convDone => obtain ⟨-, rfl⟩ | ⟨-, -, rfl⟩ | ⟨-, -, rfl⟩ := execConvDone_next h <;> exact .inl rfl
  | tick => obtain ⟨-, rfl⟩ | ⟨-, -, rfl⟩ := execTick_next h <;> exact .inl rfl
  | xformDone => obtain ⟨-, rfl⟩ := execXformDone_next h; exact .inl (State.publish_errcode s)
  | rdCmd | rdStatus | rdFill | rdErr | rdCalofs | rdWin | rdBinlo | rdBinhi | rdBinc | rdRsvd => exact absurd rfl read

/-- With no error recorded, an operation that leaves one recorded raised it. -/
theorem exists_raises_of_recorded (clear : s.errcode = 0) (h : exec i s = .next t) (recorded : t.errcode ≠ 0) :
    ∃ e, Raises s i e ∧ t.errcode = e.code := by
  obtain same | ⟨-, cleared⟩ | ⟨e, raises, rfl⟩ := exec_errcode_next h
  · exact absurd (same.trans clear) recorded
  · exact absurd cleared recorded
  · exact ⟨e, raises, by simp [State.raise_errcode, clear]⟩

end

/-- Settles O53: `raise` records over 0 alone, and nothing but RESET and CLRERR clears. -/
theorem firstErrorIsKept : Obligations.FirstErrorIsKept := by
  refine ⟨fun s e clear => by rw [State.raise_of_clear clear], fun s t i h recorded notReset notClrerr => ?_⟩
  obtain same | ⟨reset | clrerr, -⟩ | ⟨e, -, rfl⟩ := exec_errcode_next h
  · exact same
  · exact absurd reset notReset
  · exact absurd clrerr notClrerr
  · rw [State.raise_of_recorded (s := s.begin) recorded, State.begin_errcode]

/-- Settles O54: an error recorded was raised by a row of `Raises`, and each row records its code; BUSY = 0 wherever
READY = 0, so that no row's condition meets the other row of its command. -/
theorem errorsFollowTheErrorTable : Obligations.ErrorsFollowTheErrorTable := by
  refine ⟨fun s t i _ clear h recorded => ?_, fun s busyIsReady clear => ?_⟩
  · obtain ⟨e, raises, code⟩ := exists_raises_of_recorded clear h recorded
    cases raises with
    | rsvdCmd d => exact .inl ⟨⟨d, rfl⟩, code⟩
    | startNotReady _ notReady => exact .inr (.inl ⟨rfl, notReady, code⟩)
    | startBusy busy => exact .inr (.inr (.inl ⟨rfl, busy, code⟩))
    | armNotReady _ notReady => exact .inr (.inr (.inr (.inl ⟨rfl, notReady, code⟩)))
    | armBusy busy => exact .inr (.inr (.inr (.inr ⟨rfl, busy, code⟩)))
  · have idle_of_not_ready (notReady : s.ready = false) : s.busy = false := by
      simpa [BusyIsReady, notReady] using busyIsReady
    exact ⟨fun d => exec_records_of_raises clear (.rsvdCmd d),
      fun notReady => exec_records_of_raises clear (.startNotReady (idle_of_not_ready notReady) notReady),
      fun busy => exec_records_of_raises clear (.startBusy busy),
      fun notReady => exec_records_of_raises clear (.armNotReady (idle_of_not_ready notReady) notReady),
      fun busy => exec_records_of_raises clear (.armBusy busy)⟩

end Sys2Proof.Machine
end

section
/-! R228 (spec/60_exceptions.md): the order of a cycle's events, and what it makes of a TICK and of a STATUS read in the cycle
of an accepted CONV_DONE. -/

namespace Sys2Proof.Machine

open Sys2Proof.Safety

/-! ## The vector without events -/

@[simp] theorem evtR_zero : evtR 0#13 = false := rfl

@[simp] theorem evtC_zero : evtC 0#13 = false := rfl

@[simp] theorem evtT_zero : evtT 0#13 = false := rfl

@[simp] theorem decodeEvt_zero : decodeEvt 0#13 = [] := rfl

/-! ## What is left of a vector (R77) -/

theorem evtLeft_of_both {v : EvtWord} (notR : evtR v = false) (convDone : evtC v = true) (tick : evtT v = true) :
    evtLeft v = evtVector false true false 0 := by
  simp [evtLeft, notR, convDone, tick]

theorem evtLeft_of_single {v : EvtWord} (notR : evtR v = false) (single : evtC v = false ∨ evtT v = false) :
    evtLeft v = 0 := by
  rw [evtLeft, if_neg (by simp [notR])]
  obtain notC | notT := single
  · exact if_neg (by simp [notC])
  · rw [notT]
    exact ite_self _

/-- What is left of a vector without RESET holds the events after its first one. -/
theorem decodeEvt_evtLeft {v : EvtWord} {i : Instr} {is : List Instr} (notR : evtR v = false)
    (events : decodeEvt v = i :: is) : evtR (evtLeft v) = false ∧ decodeEvt (evtLeft v) = is := by
  obtain ⟨r, -⟩ | ⟨-, convDone, tick, both⟩ | ⟨-, -, notT, single⟩ | ⟨-, notC, -, single⟩ | ⟨-, -, -, none⟩ :=
    decodeEvt_cases v
  · simp [notR] at r
  · obtain ⟨-, rfl⟩ := List.cons.inj (both.symm.trans events)
    rw [evtLeft_of_both notR convDone tick]
    exact ⟨rfl, rfl⟩
  · obtain ⟨-, rfl⟩ := List.cons.inj (single.symm.trans events)
    rw [evtLeft_of_single notR (.inr notT)]
    exact ⟨rfl, rfl⟩
  · obtain ⟨-, rfl⟩ := List.cons.inj (single.symm.trans events)
    rw [evtLeft_of_single notR (.inl notC)]
    exact ⟨rfl, rfl⟩
  · simp [none] at events

/-! ## The order of a cycle, input by input -/

section
variable {c : Cycle} {i : Instr} {is : List Instr} {w : BusWord} {engine : Bool}

theorem cycleOrder_of_reset (r : evtR c.evt = true) : cycleOrder c = [.reset] := if_pos r

/-- Without RESET the events come before everything else. -/
theorem cycleOrder_of_not_reset (notR : evtR c.evt = false) :
    cycleOrder c = decodeEvt c.evt ++ cycleOrder { c with evt := 0 } := by
  simp [cycleOrder, decodeEvt, notR]

theorem cycleOrder_of_event (notR : evtR c.evt = false) (events : decodeEvt c.evt = i :: is) :
    cycleOrder c = i :: cycleOrder { c with evt := evtLeft c.evt } := by
  obtain ⟨stillNotR, later⟩ := decodeEvt_evtLeft notR events
  have order := cycleOrder_of_not_reset (c := { c with evt := evtLeft c.evt }) stillNotR
  rw [order, later, cycleOrder_of_not_reset notR, events, List.cons_append]

theorem cycleOrder_of_access (decoded : decodeBus w = .ok i) :
    cycleOrder { evt := 0, bus := some w, engine } = i :: cycleOrder { evt := 0, bus := none, engine } := by
  simp [cycleOrder, decoded]

theorem cycleOrder_of_not_pending (nothing : c.pending = false) : cycleOrder c = [] := by
  simp only [Cycle.pending, Bool.or_eq_false_iff, Option.isSome_eq_false_iff, Option.isNone_iff_eq_none] at nothing
  obtain ⟨⟨⟨⟨notR, notT⟩, notC⟩, noAccess⟩, noEngine⟩ := nothing
  simp [cycleOrder, notR, notT, notC, noAccess, noEngine]

/-! ## What a cycle holds next, input by input -/

theorem fetch_of_reset (r : evtR c.evt = true) : c.fetch = .op .reset Cycle.empty := by
  simp [Cycle.fetch, decodeEvt, r]

theorem fetch_of_event (notR : evtR c.evt = false) (events : decodeEvt c.evt = i :: is) :
    c.fetch = .op i { c with evt := evtLeft c.evt } := by
  simp [Cycle.fetch, events, notR]

theorem fetch_of_no_event (events : decodeEvt c.evt = []) : c.fetch = Cycle.fetch { c with evt := 0 } := by
  simp [Cycle.fetch, events]

theorem fetch_of_access (decoded : decodeBus w = .ok i) :
    Cycle.fetch { evt := 0, bus := some w, engine } = .op i { evt := 0, bus := none, engine } := by
  simp [Cycle.fetch, decoded]

end

/-! ## The two agree -/

theorem busIsTransaction_of_no_access {c : Cycle} (noAccess : c.bus = none) : busIsTransaction c :=
  fun w access => by simp [noAccess] at access

/-- `fetch` takes the first operation of `cycleOrder` and leaves a cycle that holds the others. -/
theorem fetch_follows_cycleOrder {c : Cycle} (transaction : busIsTransaction c) :
    (c.fetch = .idle ∧ cycleOrder c = []) ∨
    (∃ i left, c.fetch = .op i left ∧ cycleOrder c = i :: cycleOrder left ∧ busIsTransaction left) := by
  by_cases r : evtR c.evt = true
  · exact .inr ⟨_, _, fetch_of_reset r, cycleOrder_of_reset r, busIsTransaction_of_no_access rfl⟩
  have notR : evtR c.evt = false := by simpa using r
  cases events : decodeEvt c.evt with
  | cons i is => exact .inr ⟨_, _, fetch_of_event notR events, cycleOrder_of_event notR events, transaction⟩
  | nil =>
    rw [fetch_of_no_event events, cycleOrder_of_not_reset notR, events, List.nil_append]
    cases access : c.bus with
    | some w =>
      have decoded := decodeBus_of_busZ (transaction w access)
      exact .inr ⟨_, _, fetch_of_access decoded, cycleOrder_of_access decoded, busIsTransaction_of_no_access rfl⟩
    | none =>
      cases c.engine with
      | true => exact .inr ⟨.xformDone, Cycle.empty, rfl, rfl, busIsTransaction_of_no_access rfl⟩
      | false => exact .inl ⟨rfl, rfl⟩

/-! ## CONV_DONE and what follows it in its cycle -/

section
variable {s : State} (raw : RawReading)

theorem runOps_pair {i j : Instr} {m t : State} (first : exec i s = .next m) (second : exec j m = .next t) :
    runOps [i, j] s = some t :=
  runOps_cons.mpr ⟨m, first, runOps_cons.mpr ⟨t, second, rfl⟩⟩

theorem tick_after_convDone_of_not_last (sampling : s.sampling = true) (inFlight : s.pending = true)
    (notLast : s.fill ≠ 31) :
    ∃ t, runOps [.convDone raw, .tick] s = some t ∧ t.pending = true ∧ t.convReq = true :=
  ⟨_, runOps_pair (exec_convDone_of_not_last inFlight notLast) (exec_tick_of_accepted sampling rfl), rfl, rfl⟩

theorem tick_after_convDone_of_last (inFlight : s.pending = true) (last : s.fill = 31) :
    ∃ t, runOps [.convDone raw, .tick] s = some t ∧ t.pending = false ∧ t.convReq = false ∧ t.sampling = false :=
  ⟨_, runOps_pair (exec_convDone_of_last inFlight last) (exec_tick_of_ignored (.inl rfl)), rfl, rfl, rfl⟩

theorem rdStatus_after_convDone_of_last (inFlight : s.pending = true) (last : s.fill = 31) :
    ∃ t v, runOps [.convDone raw, .rdStatus] s = some t ∧ t.readData = some v ∧ v.getLsbD 0 = true :=
  ⟨_, _, runOps_pair (exec_convDone_of_last inFlight last) rfl, rfl, State.statusWord_getLsbD _ 0⟩

end

/-- Settles O11: what a cycle holds next is the first of its order, and after an accepted CONV_DONE a TICK and a STATUS read
find SAMPLING and READY as its branch leaves them. -/
theorem simultaneousEventsAreOrdered : Obligations.SimultaneousEventsAreOrdered := by
  refine ⟨fun c i left transaction fetched => ?_, fun c transaction fetched => ?_, fun c r transaction fetched => ?_,
    fun s c rest i left present fetched => step_of_fetch present fetched, fun s raw inv inFlight => ?_,
    fun s raw inFlight last => rdStatus_after_convDone_of_last raw inFlight last⟩
  · obtain ⟨idle, -⟩ | ⟨j, rem, op, order, kept⟩ := fetch_follows_cycleOrder transaction
    · simp [fetched] at idle
    · obtain ⟨rfl, rfl⟩ : i = j ∧ left = rem := by simpa [fetched] using op
      exact ⟨order, kept, cycleOrder_of_not_pending⟩
  · obtain ⟨-, empty⟩ | ⟨j, rem, op, -⟩ := fetch_follows_cycleOrder transaction
    · exact empty
    · simp [fetched] at op
  · obtain ⟨idle, -⟩ | ⟨j, rem, op, -⟩ := fetch_follows_cycleOrder transaction
    · simp [fetched] at idle
    · simp [fetched] at op
  · obtain ⟨-, -, pendingIsSampling, -⟩ := inv
    by_cases last : s.fill = 31
    · obtain ⟨t, run, frozen⟩ := tick_after_convDone_of_last raw inFlight last
      exact ⟨t, run, fun notLast => absurd last notLast, fun _ => frozen⟩
    · obtain ⟨t, run, requested⟩ := tick_after_convDone_of_not_last raw (pendingIsSampling inFlight) inFlight last
      exact ⟨t, run, fun _ => requested, fun isLast => absurd isLast last⟩

end Sys2Proof.Machine
end

section
/-! R250 and R251 (spec/70_reset_and_hazards.md): the state after RESET as the registers show it, and the first TICK after it. -/

namespace Sys2Proof.Machine

open Sys2Proof.Safety

theorem exec_reset (s : State) :
    exec .reset s = .next { State.resetWith s.cfg with epoch := s.epoch + 1, agenda := s.agenda } := rfl

/-- STATUS after RESET: bit 1, SAMPLING, alone (R40). -/
theorem State.statusWord_resetWith (p : Params) : (State.resetWith p).statusWord = 0x0002 := by
  simp [State.statusWord, State.resetWith]

/-! ## The registers of the spectrum while every bin is 0 -/

section
variable {s : State} {u : Fin 16}

theorem State.binLo_of_clear (clear : s.bin.get u = 0) : s.binLo u = 0 := by rw [State.binLo, clear]; rfl

theorem State.binHi_of_clear (clear : s.bin.get u = 0) : s.binHi u = 0 := by rw [State.binHi, clear]; rfl

theorem State.bincWord_of_clear (clear : s.bin.get u = 0) : s.bincWord u = 0 := by
  rw [State.bincWord, State.binc, clear]; rfl

/-- The offsets 0x80 to 0xDF are those of BINLO, BINHI and BINC (R51). -/
theorem State.regRead_of_bins_clear (clear : ∀ u, s.bin.get u = 0) {a : Offset} (lo : 0x80 ≤ a.toNat)
    (hi : a.toNat ≤ 0xDF) : s.regRead a = 0x0000 := by
  by_cases clipped : 0xC0 ≤ a.toNat
  · simp (disch := omega) only [State.regRead, if_pos, if_neg]
    exact State.bincWord_of_clear (clear _)
  · simp (disch := omega) only [State.regRead, if_pos, if_neg]
    split
    · exact State.binLo_of_clear (clear _)
    · exact State.binHi_of_clear (clear _)

end

/-- Settles O12: the row of RESET is the bit R, and each register reads a reset value of `State.resetWith`. -/
theorem resetLeavesTheResetValues : Obligations.ResetLeavesTheResetValues :=
  ⟨fun _ r => if_pos (match_reset_iff.mp r), fun s => ⟨_, exec_reset s, rfl, rfl, rfl, rfl,
    Vector.get_replicate_eq false, rfl, rfl, rfl, Vector.get_replicate_eq 0, rfl, rfl, rfl, rfl,
    rfl, State.statusWord_resetWith s.cfg, rfl, rfl, State.toNat_calofsWord _,
    fun _ => State.regRead_of_bins_clear (Vector.get_replicate_eq 0), rfl, rfl⟩⟩

/-! ## Host accesses while READY = 0 -/

/-- READY = 0 refuses ARM, and no other access of the host writes the acquisition (R181). -/
theorem exec_sameAcquisition_of_hostAccess {i : Instr} {s t : State} (access : isHostAccess i = true)
    (notReady : s.ready = false) (h : exec i s = .next t) : SameAcquisition s t := by
  have notReset : i ≠ .reset := by rintro rfl; cases access
  have notConv (raw : RawReading) : i ≠ .convDone raw := by rintro rfl; cases access
  obtain same | ⟨-, -, ready, -⟩ | ⟨rfl, -⟩ := exec_acquisition_next notReset notConv h
  · exact same
  · simp [notReady] at ready
  · cases access

theorem runOps_sameAcquisition_of_hostAccesses {ops : List Instr} {s t : State}
    (accesses : ∀ i ∈ ops, isHostAccess i = true) (notReady : s.ready = false) (run : runOps ops s = some t) :
    SameAcquisition s t :=
  runOps_keeps (P := SameAcquisition s) (fun i mem _ _ kept performed =>
    kept.trans (exec_sameAcquisition_of_hostAccess (accesses i mem) (kept.ready.trans notReady) performed)) run (.refl s)

/-- Settles O13: the accesses leave SAMPLING = 1 and PENDING = 0 as RESET set them, so that the TICK is accepted. -/
theorem firstTickAfterResetRequestsAConversion : Obligations.FirstTickAfterResetRequestsAConversion := by
  refine fun s => ⟨_, exec_reset s, rfl, rfl, fun _ _ accesses run => ?_⟩
  have same := runOps_sameAcquisition_of_hostAccesses accesses rfl run
  exact ⟨_, exec_tick_of_accepted same.sampling same.pending, rfl, rfl⟩

end Sys2Proof.Machine
end

section
/-! R70 to R81 (spec/30_encoding.md): the encoder and the decoder undo each other, up to the bits the spec ignores, and the
script lines. -/

namespace Sys2Proof.Machine

open Sys2Proof.Safety

/-! ## Decoding an encoding -/

theorem decode_bus {w : BusWord} {i : Instr} (h : decodeBus w = .ok i) : decode (.bus w) = .ok [i] := by
  simp only [decode, h]

theorem decode_busDescriptor {wr : Bool} {a : Offset} {d : BusData} {i : Instr} (op : StandsFor wr a d i) :
    decode (.bus (busDescriptor wr a d)) = .ok [i] :=
  decode_bus (decodeBus_busDescriptor op)

/-- An offset written as a number. -/
theorem toNat_offset {n : Nat} (bound : n < 256) : (BitVec.ofNat 8 n).toNat = n :=
  (BitVec.toNat_ofNat n 8).trans (Nat.mod_eq_of_lt bound)

/-- The fields that the encoder writes stand for the operation it encodes, so that `decodeBus_busDescriptor` reads it
back. -/
theorem decode_encode {i : Instr} (wf : i.wf = true) : decode (encode i) = .ok [i] := by
  cases i with
  | cmdNop | cmdArm | cmdStart | cmdClrerr => exact decode_busDescriptor ⟨⟨rfl, by decide, rfl⟩, trivial, wf⟩
  | cmdRsvd d => exact decode_busDescriptor ⟨⟨rfl, by decide⟩, rfl, wf⟩
  | wrOther a d => exact decode_busDescriptor ⟨rfl, ⟨rfl, rfl⟩, wf⟩
  | rdCmd | rdStatus | rdFill | rdErr | rdCalofs => exact decode_busDescriptor ⟨⟨rfl, rfl⟩, trivial, wf⟩
  | rdWin i =>
    have offset := toNat_offset (n := 0x40 + 2 * i.val) (by omega)
    exact decode_busDescriptor ⟨⟨rfl, by omega⟩, by simp only [HasOperands]; omega, wf⟩
  | rdBinlo u =>
    have offset := toNat_offset (n := 0x80 + 4 * u.val) (by omega)
    exact decode_busDescriptor ⟨⟨rfl, by omega, by omega⟩, by simp only [HasOperands]; omega, wf⟩
  | rdBinhi u =>
    have offset := toNat_offset (n := 0x82 + 4 * u.val) (by omega)
    exact decode_busDescriptor ⟨⟨rfl, by omega, by omega⟩, by simp only [HasOperands]; omega, wf⟩
  | rdBinc u =>
    have offset := toNat_offset (n := 0xC0 + 2 * u.val) (by omega)
    exact decode_busDescriptor ⟨⟨rfl, by omega⟩, by simp only [HasOperands]; omega, wf⟩
  | rdRsvd a => exact decode_busDescriptor ⟨rfl, rfl, wf⟩
  | reset | convDone | tick => simp [encode, decode, decodeEvt]
  | xformDone => rfl

/-- Settles O2, by `decode_encode`: BUS operations by the fields written, events by the bits R, T, C and V. -/
theorem decodeInvertsEncode : Obligations.DecodeInvertsEncode := fun _ => decode_encode

/-- Settles O1: each conjunct decodes one closed word. -/
theorem wordsOfTheSpecDecode : Obligations.WordsOfTheSpecDecode := by
  unfold Obligations.WordsOfTheSpecDecode
  decide

/-! ## Encoding what was decoded -/

/-- A mask that keeps W acts on A and D apart. -/
theorem and_eq_busDescriptor {w m : BusWord} (valid : busZ w = 0) (keepsW : busW m = true) :
    w &&& m = busDescriptor (busW w) (busA w &&& busA m) (busD w &&& busD m) := by
  have maskedZ : busZ (w &&& m) = 0 := by
    rw [busZ] at valid ⊢
    rw [BitVec.extractLsb'_and, valid]
    exact BitVec.zero_and
  have maskedW : busW (w &&& m) = busW w := by
    rw [busW, beq_iff_eq] at keepsW
    rw [busW, busW, BitVec.extractLsb'_and, keepsW]
    exact congrArg (· == 1) BitVec.and_allOnes
  rw [← busDescriptor_fields (w &&& m) maskedZ, maskedW, busA, busD, BitVec.extractLsb'_and, BitVec.extractLsb'_and]
  rfl

/-- An offset with A[0] cleared. -/
theorem toNat_and_even (a : Offset) : (a &&& 0xFE).toNat = 2 * (a.toNat / 2) := by
  revert a
  decide

theorem offset_eq_and_even {o a : Offset} (register : o.toNat = 2 * (a.toNat / 2)) : o = a &&& 0xFE := by
  rw [← BitVec.toNat_inj, toNat_and_even, register]

section
variable {a : Offset} {d : BusData} {i : Instr}

theorem encode_of_fields {wr : Bool} {o : Offset} {d' : BusData} {m : BusWord} (mask : busCareMask i = m)
    (encoding : encode i = .bus (busDescriptor wr o d')) (offset : o = a &&& busA m) (data : d' = d &&& busD m) :
    encode i = .bus (busDescriptor wr (a &&& busA (busCareMask i)) (d &&& busD (busCareMask i))) := by
  rw [encoding, mask, offset, data]

theorem encode_command {d' : BusData} (dropsA0 : busCareMask i = 0xFFFEFFFF)
    (encoding : encode i = .bus (busDescriptor true 0 d')) (cmd : a.toNat < 2) (data : d.toNat = d'.toNat) :
    encode i = .bus (busDescriptor true (a &&& busA (busCareMask i)) (d &&& busD (busCareMask i))) := by
  obtain rfl := BitVec.eq_of_toNat_eq data
  exact encode_of_fields dropsA0 encoding (offset_eq_and_even (show 0 = _ by omega)) BitVec.and_allOnes.symm

theorem encode_read {o : Offset} (dropsA0AndD : busCareMask i = 0xFFFE0000)
    (encoding : encode i = .bus (busDescriptor false o 0)) (register : o.toNat = 2 * (a.toNat / 2)) :
    encode i = .bus (busDescriptor false (a &&& busA (busCareMask i)) (d &&& busD (busCareMask i))) :=
  encode_of_fields dropsA0AndD encoding (offset_eq_and_even register) BitVec.and_zero.symm

/-- The encoder writes the fields that an operation stands for, with the bits that its mask drops at 0. -/
theorem encode_of_standsFor {wr : Bool} (op : StandsFor wr a d i) :
    encode i = .bus (busDescriptor wr (a &&& busA (busCareMask i)) (d &&& busD (busCareMask i))) := by
  obtain ⟨row, operands, -⟩ := op
  cases i with
  | cmdNop | cmdArm | cmdStart | cmdClrerr =>
    obtain ⟨rfl, cmd, command⟩ := row
    exact encode_command rfl rfl cmd command
  | cmdRsvd =>
    obtain ⟨rfl, cmd⟩ := row
    obtain rfl : _ = d := operands
    exact encode_command rfl rfl cmd rfl
  | wrOther =>
    obtain rfl : wr = true := row
    obtain ⟨rfl, rfl⟩ := operands
    exact encode_of_fields (m := 0xFFFFFFFF) rfl rfl BitVec.and_allOnes.symm BitVec.and_allOnes.symm
  | rdCmd | rdStatus | rdFill | rdErr | rdCalofs =>
    obtain ⟨rfl, register⟩ := row
    exact encode_read rfl rfl (by rw [register]; rfl)
  | rdWin | rdBinc =>
    obtain ⟨rfl, block⟩ := row
    simp only [HasOperands] at operands
    exact encode_read rfl rfl (by rw [toNat_offset (by omega)]; omega)
  | rdBinlo | rdBinhi =>
    obtain ⟨rfl, block, half⟩ := row
    simp only [HasOperands] at operands
    exact encode_read rfl rfl (by rw [toNat_offset (by omega)]; omega)
  | rdRsvd =>
    obtain rfl : wr = false := row
    obtain rfl : _ = a := operands
    exact encode_of_fields (m := 0xFFFF0000) rfl rfl BitVec.and_allOnes.symm BitVec.and_zero.symm
  | reset | convDone | tick | xformDone => exact row.elim

end

/-- Settles O8: both sides are the descriptor of the decoded fields under the mask. -/
theorem encodeGivesBackEveryBitThatMatters : Obligations.EncodeGivesBackEveryBitThatMatters := by
  intro w i h
  obtain ⟨valid, op⟩ := decodeBus_ok h
  have keepsW : busW (busCareMask i) = true := by
    cases i <;> simp only [busCareMask] <;> decide
  rw [and_eq_busDescriptor valid keepsW]
  exact encode_of_standsFor op

/-! ## Script lines (R79 to R81) -/

/-- The line `conv` sets C over the reading in V. -/
theorem encoding_conv (raw : RawReading) : (Line.conv raw).encoding = encode (.convDone raw) := by
  refine congrArg Encoding.evt (BitVec.eq_of_getLsbD_eq fun j bound => ?_)
  rw [getLsbD_evtVector, BitVec.getLsbD_or, BitVec.getLsbD_setWidth]
  by_cases low : j < 10
  · have flags : ∀ j : Fin 10, (0x0400 : EvtWord).getLsbD j = false := by decide
    rw [flags ⟨j, low⟩, if_pos low, decide_eq_true bound, Bool.false_or, Bool.true_and]
  · have flags : j = 10 ∨ j = 11 ∨ j = 12 := by omega
    rw [BitVec.getLsbD_of_ge raw j (by omega)]
    obtain rfl | rfl | rfl := flags <;> rfl

theorem decode_conv (raw : RawReading) : decode (Line.conv raw).encoding = .ok [.convDone raw] := by
  rw [encoding_conv, decode_encode rfl]

theorem decode_wr (a : Offset) (d : BusData) :
    decode (Line.wr a d).encoding = .ok [if a.toNat < 2 then decodeCommand d else .wrOther a d] := by
  refine decode_bus ?_
  simp [decodeBus_of_busZ, isCmdOffset_iff]

theorem decode_rd (a : Offset) : decode (Line.rd a).encoding = .ok [decodeRead a] :=
  decode_busDescriptor (decodeRead_standsFor a 0)

theorem isRead_decodeRead (a : Offset) : isRead (decodeRead a) = true := by
  rw [decodeRead]
  split_ifs <;> rfl

/-- Settles O9: lines by the decoder's lemmas, and pseudo-operations line by line. -/
theorem scriptLinesStandForOperations : Obligations.ScriptLinesStandForOperations := by
  refine ⟨rfl, rfl, rfl, decode_conv, fun v => rfl, decode_wr,
    fun a => ⟨decode_rd a, isRead_decodeRead a, fun s => exec_decodeRead s a⟩, rfl, rfl, rfl, rfl, fun raw => ?_,
    fun u => ?_, rfl⟩
  · exact congrArg (List.cons (Except.ok [.tick])) (congrArg (List.cons · []) (decode_conv raw))
  · exact congrArg₂ (fun lo hi => [lo, hi]) (decode_encode (i := .rdBinlo u) rfl) (decode_encode (i := .rdBinhi u) rfl)

end Sys2Proof.Machine
end

section
/-! R38 and R28 (spec/10_state.md): the invariants, kept by every step, and the window, which only an accepted CONV_DONE and
RESET write. -/

namespace Sys2Proof.Machine

open Sys2Proof.Safety

/-! ## Everything an operation can do to the acquisition -/

/-- The acquisition after an operation other than RESET (R24 to R28): it is as it was, or the operation is an accepted ARM,
an accepted TICK or an accepted CONV_DONE, which stores a sample short of the last slot or completes the window. -/
inductive Acquires (s : State) : Instr → State → Prop where
  | unchanged {i : Instr} {t : State} (same : SameAcquisition s t)
      (notAccepted : ∀ raw, i = .convDone raw → s.pending = false) : Acquires s i t
  | arm (idle : s.busy = false) (ready : s.ready = true) :
      Acquires s .cmdArm { s.begin with ready := false, fill := 0, sampling := true }
  | tick (sampling : s.sampling = true) (free : s.pending = false) :
      Acquires s .tick { s.begin.emitConvReq with pending := true }
  | store (raw : RawReading) (inFlight : s.pending = true) (notLast : s.fill ≠ 31) :
      Acquires s (.convDone raw)
        { s.begin.writeWin s.fill.toFin (sample s.cfg raw) with pending := false, fill := s.fill + 1 }
  | complete (raw : RawReading) (inFlight : s.pending = true) (last : s.fill = 31) :
      Acquires s (.convDone raw) (State.windowFull { s.begin.writeWin 31 (sample s.cfg raw) with pending := false })

section
variable {s t : State} {i : Instr}

theorem exec_acquires (notReset : i ≠ .reset) (h : exec i s = .next t) : Acquires s i t := by
  by_cases conv : ∃ raw, i = .convDone raw
  · obtain ⟨raw, rfl⟩ := conv
    obtain ⟨idle, rfl⟩ | ⟨inFlight, last, rfl⟩ | ⟨inFlight, notLast, rfl⟩ := execConvDone_next h
    · exact .unchanged ⟨rfl, rfl, rfl, rfl, rfl, rfl⟩ fun _ _ => idle
    · have slot : s.fill.toFin = (31 : Fin 32) := congrArg BitVec.toFin last
      rw [slot]
      exact .complete raw inFlight last
    · exact .store raw inFlight notLast
  · have notConv (raw : RawReading) : i ≠ .convDone raw := fun isConv => conv ⟨raw, isConv⟩
    obtain same | ⟨rfl, idle, ready, rfl⟩ | ⟨rfl, sampling, free, rfl⟩ := exec_acquisition_next notReset notConv h
    · exact .unchanged same fun raw isConv => absurd isConv (notConv raw)
    · exact .arm idle ready
    · exact .tick sampling free

theorem toNat_succ_fill (notLast : s.fill ≠ 31) : (s.fill + 1).toNat = s.fill.toNat + 1 := by
  have bound := s.fill.isLt
  have below : s.fill.toNat ≠ 31 := fun last => notLast (BitVec.eq_of_toNat_eq last)
  rw [BitVec.toNat_add, show (1 : BitVec 5).toNat = 1 from rfl]
  omega

end

/-! ## The invariants about the acquisition -/

/-- I1, I2, I3 and I7 of R38, with what I7 rests on: the invariants about the acquisition alone. -/
structure AcquisitionInv (s : State) : Prop where
  opposes : SamplingOpposesReady s
  quiet : ReadyIsQuiet s
  pendingIsSampling : PendingIsSampling s
  written : ReadyIsWritten s
  filled : FilledIsWritten s

/-- I4, I5 and I6 of R38: the invariants about the transform. -/
structure TransformInv (s : State) : Prop where
  busyIsReady : BusyIsReady s
  busyIsNotDone : BusyIsNotDone s
  bounded : BinsBounded s

theorem inv_iff {s : State} : Inv s ↔ AcquisitionInv s ∧ TransformInv s ∧ ErrorCodeLegal s :=
  ⟨fun ⟨opposes, quiet, pendingIsSampling, busyIsReady, busyIsNotDone, bounded, written, filled, legal⟩ =>
    ⟨⟨opposes, quiet, pendingIsSampling, written, filled⟩, ⟨busyIsReady, busyIsNotDone, bounded⟩, legal⟩,
   fun ⟨⟨opposes, quiet, pendingIsSampling, written, filled⟩, ⟨busyIsReady, busyIsNotDone, bounded⟩, legal⟩ =>
    ⟨opposes, quiet, pendingIsSampling, busyIsReady, busyIsNotDone, bounded, written, filled, legal⟩⟩

/-- I1 read from SAMPLING to READY. -/
theorem AcquisitionInv.ready_eq_false {s : State} (inv : AcquisitionInv s) (sampling : s.sampling = true) :
    s.ready = false := by
  simpa [SamplingOpposesReady, sampling] using inv.opposes

theorem filledIsWritten_of_empty {s : State} (empty : s.fill = 0) : FilledIsWritten s := by
  intro k below
  simp [empty] at below

theorem AcquisitionInv.of_same {s t : State} (inv : AcquisitionInv s) (same : SameAcquisition s t) : AcquisitionInv t := by
  obtain ⟨ready, sampling, fill, pending, -, winWritten⟩ := same
  obtain ⟨opposes, quiet, pendingIsSampling, written, filled⟩ := inv
  constructor
  · rwa [SamplingOpposesReady, sampling, ready]
  · rwa [ReadyIsQuiet, ready, fill, pending]
  · rwa [PendingIsSampling, pending, sampling]
  · rwa [ReadyIsWritten, ready, winWritten]
  · rwa [FilledIsWritten, fill, winWritten]

/-- Marking the slot above the first n written ones leaves n + 1 of them written. -/
theorem written_set {v : Vector Bool 32} {slot : Fin 32} (below : ∀ k : Fin 32, k.val < slot.val → v.get k = true)
    (k : Fin 32) (bound : k.val < slot.val + 1) : (v.set slot true).get k = true := by
  by_cases isSlot : k = slot
  · rw [isSlot, Vector.get_set_eq]
  · rw [Vector.get_set_ne v true isSlot]
    exact below k (by omega)

section
variable {s t : State} {i : Instr}

theorem exec_keeps_acquisitionInv (inv : AcquisitionInv s) (notReset : i ≠ .reset) (h : exec i s = .next t) :
    AcquisitionInv t := by
  cases exec_acquires notReset h with
  | unchanged same => exact inv.of_same same
  | arm => exact ⟨rfl, by simp, fun _ => rfl, by simp, filledIsWritten_of_empty rfl⟩
  | tick sampling =>
    have notReady := inv.ready_eq_false sampling
    exact ⟨inv.opposes, by simp [notReady], fun _ => sampling, by simp [notReady], inv.filled⟩
  | store raw inFlight notLast =>
    have notReady := inv.ready_eq_false (inv.pendingIsSampling inFlight)
    refine ⟨inv.opposes, by simp [notReady], by simp, by simp [notReady], fun k below => ?_⟩
    exact written_set inv.filled k (below.trans_eq (toNat_succ_fill notLast))
  | complete raw inFlight last =>
    have below (k : Fin 32) (lt : k.val < 31) : s.winWritten.get k = true := inv.filled k (by simpa [last] using lt)
    exact ⟨rfl, by simp, by simp, fun _ k => written_set (slot := 31) below k k.isLt,
      filledIsWritten_of_empty rfl⟩

/-- READY falls by an accepted ARM alone. -/
theorem exec_keeps_ready (notReset : i ≠ .reset) (h : exec i s = .next t) (ready : s.ready = true) :
    t.ready = true ∨ (i = .cmdArm ∧ s.busy = false) := by
  cases exec_acquires notReset h with
  | unchanged same => exact .inl (same.ready.trans ready)
  | arm idle => exact .inr ⟨rfl, idle⟩
  | tick | store => exact .inl ready
  | complete => exact .inl rfl

/-! ## The invariants about the transform and the errors -/

theorem exec_keeps_transformInv (inv : TransformInv s) (notReset : i ≠ .reset) (h : exec i s = .next t) :
    TransformInv t := by
  by_cases isDone : i = .xformDone
  · subst isDone
    obtain ⟨-, rfl⟩ := execXformDone_next h
    refine ⟨by simp, by simp, fun u => ?_⟩
    have bound := magnitude_le s.cfg s.window u.val
    simp only [State.publish_bin, Vector.get_ofFn_eq, toInt_ofNat_magnitude]
    omega
  obtain ⟨busy, done, -, bin⟩ | ⟨rfl, idle, ready, rfl⟩ := exec_transform_next notReset isDone h
  · refine ⟨fun isBusy => ?_, ?_, ?_⟩
    · rw [busy] at isBusy
      obtain kept | ⟨-, idle⟩ := exec_keeps_ready notReset h (inv.busyIsReady isBusy)
      · exact kept
      · simp [isBusy] at idle
    · rw [BusyIsNotDone, busy, done]
      exact inv.busyIsNotDone
    · rw [BinsBounded, bin]
      exact inv.bounded
  · exact ⟨fun _ => ready, fun _ => rfl, inv.bounded⟩

theorem exec_keeps_errorCodeLegal (legal : ErrorCodeLegal s) (h : exec i s = .next t) : ErrorCodeLegal t := by
  obtain same | ⟨-, cleared⟩ | ⟨e, -, rfl⟩ := exec_errcode_next h
  · rwa [ErrorCodeLegal, same]
  · simp [ErrorCodeLegal, cleared]
  · rw [ErrorCodeLegal, State.raise_errcode]
    split
    · exact e.code_le_five
    · exact legal

theorem inv_resetWith (p : Params) : Inv (State.resetWith p) := by
  refine inv_iff.mpr ⟨⟨rfl, ?_, ?_, ?_, filledIsWritten_of_empty rfl⟩, ⟨?_, ?_, fun u => ?_⟩, ?_⟩ <;>
    simp [State.resetWith]

/-- The invariants hold after every operation from a state in which they hold. -/
theorem exec_keeps_inv (inv : Inv s) (h : exec i s = .next t) : Inv t := by
  by_cases isReset : i = .reset
  · subst isReset
    cases h
    exact inv_resetWith s.cfg
  obtain ⟨acquisition, transform, legal⟩ := inv_iff.mp inv
  exact inv_iff.mpr ⟨exec_keeps_acquisitionInv acquisition isReset h, exec_keeps_transformInv transform isReset h,
    exec_keeps_errorCodeLegal legal h⟩

/-- I7 read from the invariants. -/
theorem written_of_ready (inv : Inv s) (ready : s.ready = true) (k : Fin 32) : s.winWritten.get k = true := by
  obtain ⟨-, -, -, -, -, -, written, -⟩ := inv
  exact written ready k

/-! ## The window -/

/-- Everything an operation but RESET can do to the window: nothing, or store the sample of a raw reading at slot FILL. -/
theorem exec_window_next (notReset : i ≠ .reset) (h : exec i s = .next t) :
    (t.win = s.win ∧ t.winWritten = s.winWritten) ∨
    (∃ raw, i = .convDone raw ∧ s.pending = true ∧ t.win = (s.writeWin s.fill.toFin (sample s.cfg raw)).win ∧
      t.winWritten = (s.writeWin s.fill.toFin (sample s.cfg raw)).winWritten) := by
  cases exec_acquires notReset h with
  | unchanged same => exact .inl ⟨same.win, same.winWritten⟩
  | arm | tick => exact .inl ⟨rfl, rfl⟩
  | store raw inFlight => exact .inr ⟨raw, rfl, inFlight, rfl, rfl⟩
  | complete raw inFlight last => exact .inr ⟨raw, rfl, inFlight, by simp [last], by simp [last]⟩

theorem windowHoldsSamples_resetWith (p : Params) : WindowHoldsSamples (State.resetWith p) := by
  intro k written
  simp [State.resetWith] at written

theorem windowHoldsSamples_writeWin (holds : WindowHoldsSamples s) (slot : Fin 32) (raw : RawReading) :
    WindowHoldsSamples (s.writeWin slot (sample s.cfg raw)) := by
  intro k written
  by_cases isSlot : k = slot
  · subst isSlot
    exact ⟨raw, Vector.get_set_eq s.win k _⟩
  · simp only [State.writeWin_winWritten, State.writeWin_win, Vector.get_set_ne _ _ isSlot] at written ⊢
    exact holds k written

/-- Both facts speak of WIN, of what is written of it and of the configuration alone. -/
theorem window_of_congr (win : t.win = s.win) (winWritten : t.winWritten = s.winWritten) (cfg : t.cfg = s.cfg)
    (holds : WindowHoldsSamples s) (canonical : WindowCanonical s) : WindowHoldsSamples t ∧ WindowCanonical t := by
  rw [WindowHoldsSamples, WindowCanonical, win, winWritten, cfg]
  exact ⟨holds, canonical⟩

theorem exec_keeps_window (holds : WindowHoldsSamples s) (canonical : WindowCanonical s) (h : exec i s = .next t) :
    WindowHoldsSamples t ∧ WindowCanonical t := by
  by_cases isReset : i = .reset
  · subst isReset
    cases h
    exact ⟨windowHoldsSamples_resetWith s.cfg, windowCanonical_resetWith s.cfg⟩
  have cfg := exec_cfg h
  obtain ⟨win, winWritten⟩ | ⟨raw, -, -, win, winWritten⟩ := exec_window_next isReset h
  · exact window_of_congr win winWritten cfg holds canonical
  · exact window_of_congr (s := s.writeWin _ _) win winWritten cfg (windowHoldsSamples_writeWin holds _ raw)
      (windowCanonical_writeWin canonical _ _)

end

/-! ## The step -/

/-- What every operation keeps and the outputs and the agenda have no part in, every step keeps. -/
theorem step_keeps {P : State → Prop} (keeps : ∀ i s t, P s → exec i s = .next t → P t)
    (outputs : ∀ s, P s → P s.idle) (inputs : ∀ s rest, P s → P { s with agenda := rest }) {s t : State} (start : P s)
    (h : step s = .next t) : P t := by
  obtain ⟨-, rfl⟩ | ⟨c, rest, -, -, rfl⟩ | ⟨c, rest, i, left, -, -, performed⟩ := step_next h
  · exact outputs s start
  · exact inputs s.idle rest (outputs s start)
  · exact keeps i _ t (inputs s _ start) performed

/-- Settles O57: acquisition, transform and errors apart, by everything an operation can do to each. -/
theorem stepKeepsTheInvariants : Obligations.StepKeepsTheInvariants := fun _ _ inv h =>
  step_keeps (fun _ _ _ => exec_keeps_inv) (fun _ kept => kept) (fun _ _ kept => kept) inv h

/-- Settles O58: only RESET, which empties the window, and an accepted CONV_DONE, which stores a sample, write it. -/
theorem stepKeepsTheWindow : Obligations.StepKeepsTheWindow := fun _ _ holds canonical h =>
  step_keeps (P := fun s => WindowHoldsSamples s ∧ WindowCanonical s)
    (fun _ _ _ kept => exec_keeps_window kept.1 kept.2) (fun _ kept => kept) (fun _ _ kept => kept) ⟨holds, canonical⟩ h

/-- Settles O14: the reset values, under whatever configuration the platform fixes. -/
theorem resetMeetsTheInvariants : Obligations.ResetMeetsTheInvariants :=
  ⟨inv_resetWith Config.platform, windowHoldsSamples_resetWith _, windowCanonical_resetWith _,
    fun k => ⟨Vector.get_replicate_eq false k, Vector.get_replicate_eq 0 k⟩, State.statusWord_resetWith _, rfl⟩

end Sys2Proof.Machine
end

section
/-! R103 and R107 to R109 (spec/40_acquisition.md), I8 (spec/10_state.md) and R59 (spec/20_memory.md): a full window, and a
window under acquisition. -/

namespace Sys2Proof.Machine

open Sys2Proof.Safety

/-! ## A full window -/

/-- I8: READY = 1 goes with PENDING = 0, so that no CONV_DONE is accepted. -/
theorem exec_keeps_window_of_ready {s t : State} {i : Instr} (inv : Inv s) (ready : s.ready = true) (notReset : i ≠ .reset)
    (h : exec i s = .next t) : t.win = s.win ∧ t.winWritten = s.winWritten := by
  obtain kept | ⟨raw, -, inFlight, -⟩ := exec_window_next notReset h
  · exact kept
  · simp [ready_eq_false_of_pending inv inFlight] at ready

/-- Settles O19: with READY = 1 no conversion is in flight, and of the other operations ARM alone writes READY. -/
theorem noOverwriteWhileFull : Obligations.NoOverwriteWhileFull := by
  refine fun s t i inv ready h => ⟨fun notReset => exec_keeps_window_of_ready inv ready notReset h, ?_⟩
  by_cases isReset : i = .reset
  · exact .inr (.inr isReset)
  · obtain kept | arm := exec_keeps_ready isReset h ready
    · exact .inl kept
    · exact .inr (.inl arm)

/-- The window stays full with the samples of another state. -/
structure StaysFull (s t : State) : Prop where
  inv : Inv t
  ready : t.ready = true
  win : t.win = s.win
  winWritten : t.winWritten = s.winWritten

theorem StaysFull.exec_keeps {s t u : State} {i : Instr} (full : StaysFull s t) (notReset : i ≠ .reset)
    (noArm : i = .cmdArm → t.busy = true) (h : exec i t = .next u) : StaysFull s u := by
  obtain ⟨inv, ready, win, winWritten⟩ := full
  obtain ⟨winKept, writtenKept⟩ := exec_keeps_window_of_ready inv ready notReset h
  refine ⟨exec_keeps_inv inv h, ?_, winKept.trans win, writtenKept.trans winWritten⟩
  obtain kept | ⟨isArm, idle⟩ := exec_keeps_ready notReset h ready
  · exact kept
  · simp [noArm isArm] at idle

/-- Settles O20: bit 0 of STATUS is READY, and a full window stays as it is until an ARM or a RESET. -/
theorem readyIsReadAfterAllSamples : Obligations.ReadyIsReadAfterAllSamples := by
  intro s t v inv read value bit
  cases read
  obtain rfl : s.statusWord = v := by simpa using value
  have ready : s.ready = true := (State.statusWord_getLsbD s 0).symm.trans bit
  have written := written_of_ready inv ready
  refine ⟨written, fun ops u others run k => ⟨_, rfl, ?_⟩⟩
  have full : StaysFull s u := by
    refine runOps_keeps (P := StaysFull s) (fun i mem x y kept performed => ?_) run ⟨inv, ready, rfl, rfl⟩
    obtain ⟨notArm, notReset⟩ := others i mem
    exact kept.exec_keeps notReset (absurd · notArm) performed
  have slot : u.readWin k = u.win.get k := State.readWin_of_written (by rw [full.winWritten]; exact written k)
  rw [State.respond_readData, slot, full.win]

/-! ## A window under acquisition -/

/-- What both beginnings of a window leave (R107): the acquisition enabled at slot 0, no conversion in flight. -/
structure BeginsWindow (s : State) : Prop where
  notReady : s.ready = false
  empty : s.fill = 0
  free : s.pending = false

theorem beginsWindow_of_reset_or_arm {s₀ s : State}
    (start : exec .reset s₀ = .next s ∨ (Inv s₀ ∧ s₀.ready = true ∧ s₀.busy = false ∧ exec .cmdArm s₀ = .next s)) :
    BeginsWindow s := by
  obtain reset | ⟨⟨-, quiet, -⟩, ready, idle, arm⟩ := start
  · cases reset
    exact ⟨rfl, rfl, rfl⟩
  · rw [exec_cmdArm_of_accepted idle ready] at arm
    cases arm
    obtain ⟨-, free⟩ := quiet ready
    exact ⟨rfl, rfl, free⟩

/-- Induction over a run without RESET from its beginning on, one operation appended at a time: what has been accepted, or
counted, so far is that of the operations before it. -/
theorem runOps_induction {P : List Instr → State → Prop} {s : State} (start : P [] s)
    (next : ∀ is i t u, P is t → runOps is s = some t → i ≠ .reset → exec i t = .next u → P (is ++ [i]) u)
    {ops : List Instr} {t : State} (noReset : ∀ i ∈ ops, i ≠ .reset) (run : runOps ops s = some t) : P ops t := by
  induction ops using List.reverseRecOn generalizing t with
  | nil => cases run; exact start
  | append_singleton is i ih =>
    obtain ⟨m, before, last⟩ := runOps_append.mp run
    obtain ⟨u, performed, done⟩ := runOps_cons.mp last
    cases done
    exact next is i m t (ih (fun j mem => noReset j (by simp [mem])) before) before (noReset i (by simp)) performed

/-- The slots from 0 on hold the samples of the raw readings of a list, in its order. -/
def HoldsInOrder (p : Params) (raws : List RawReading) (win : Vector Sample 32) : Prop :=
  ∀ (k : Fin 32) (raw : RawReading), raws[k.val]? = some raw → win.get k = sample p raw

theorem HoldsInOrder.append {p : Params} {raws : List RawReading} {win : Vector Sample 32} {slot : Fin 32}
    (holds : HoldsInOrder p raws win) (next : slot.val = raws.length) (raw : RawReading) :
    HoldsInOrder p (raws ++ [raw]) (win.set slot (sample p raw)) := by
  intro k raw' entry
  by_cases isSlot : k = slot
  · rw [isSlot, next, List.getElem?_concat_length, Option.some.injEq] at entry
    rw [isSlot, Vector.get_set_eq, entry]
  · rw [Vector.get_set_ne _ _ isSlot]
    have inside : k.val < raws.length := by
      have bound := (List.getElem?_eq_some_iff.mp entry).choose
      rw [List.length_append, List.length_singleton] at bound
      omega
    rw [List.getElem?_append_left inside] at entry
    exact holds k raw' entry

/-- A window of which the conversions of a list have been accepted, short of the last one (R107). -/
structure Collects (p : Params) (raws : List RawReading) (t : State) : Prop where
  cfg : t.cfg = p
  notReady : t.ready = false
  fill : t.fill.toNat = raws.length
  holds : HoldsInOrder p raws t.win

theorem Collects.exec_keeps {p : Params} {raws : List RawReading} {t u : State} {i : Instr} (collects : Collects p raws t)
    (notReset : i ≠ .reset) (h : exec i t = .next u) (notFull : (raws ++ acceptedRaws [i] t).length < 32) :
    Collects p (raws ++ acceptedRaws [i] t) u := by
  have cfg := (exec_cfg h).trans collects.cfg
  obtain ⟨rfl, notReady, fill, holds⟩ := collects
  cases exec_acquires notReset h with
  | unchanged same notAccepted =>
    have none : acceptedRaws [i] t = [] := acceptedRaws_other h notAccepted
    rw [none, List.append_nil]
    exact ⟨cfg, same.ready.trans notReady, same.fill ▸ fill, same.win ▸ holds⟩
  | arm idle ready => simp [notReady] at ready
  | tick =>
    have none : acceptedRaws [.tick] t = [] := acceptedRaws_other h (by simp)
    rw [none, List.append_nil]
    exact ⟨cfg, notReady, fill, holds⟩
  | store raw inFlight notLast =>
    have one : acceptedRaws [.convDone raw] t = [raw] := acceptedRaws_convDone h inFlight
    rw [one]
    refine ⟨cfg, notReady, ?_, holds.append fill raw⟩
    rw [List.length_append, ← fill]
    exact toNat_succ_fill notLast
  | complete raw inFlight last =>
    have one : acceptedRaws [.convDone raw] t = [raw] := acceptedRaws_convDone h inFlight
    rw [one, List.length_append, ← fill, last] at notFull
    exact absurd notFull (lt_irrefl 32)

theorem collects_acceptedRaws {s t : State} {ops : List Instr} (begins : BeginsWindow s)
    (noReset : ∀ i ∈ ops, i ≠ .reset) (run : runOps ops s = some t) (notFull : (acceptedRaws ops s).length < 32) :
    Collects s.cfg (acceptedRaws ops s) t := by
  refine runOps_induction (P := fun ops t => (acceptedRaws ops s).length < 32 → Collects s.cfg (acceptedRaws ops s) t)
    (fun _ => ⟨rfl, begins.notReady, by rw [begins.empty]; rfl, by simp [HoldsInOrder, acceptedRaws]⟩)
    (fun is i u v collects before notReset performed notFull => ?_) noReset run notFull
  rw [acceptedRaws_append before] at notFull ⊢
  exact (collects (by rw [List.length_append] at notFull; omega)).exec_keeps notReset performed notFull

/-- The 32nd accepted CONV_DONE sets READY, and the window holds it at slot 31 behind the 31 before it. -/
theorem exec_convDone_completes {p : Params} {raws : List RawReading} {t : State} (collects : Collects p raws t)
    (almost : raws.length = 31) (inFlight : t.pending = true) (last : RawReading) :
    ∃ u, exec (.convDone last) t = .next u ∧ u.ready = true ∧ HoldsInOrder p (raws ++ [last]) u.win := by
  obtain ⟨rfl, -, fill, holds⟩ := collects
  have isLast : t.fill = 31 := BitVec.eq_of_toNat_eq (fill.trans almost)
  exact ⟨_, exec_convDone_of_last inFlight isLast, rfl, holds.append (slot := 31) almost.symm last⟩

/-- Settles O18: FILL counts the accepted conversions, and each is stored at the slot of its number. -/
theorem windowIsCompleteInAcquisitionOrder : Obligations.WindowIsCompleteInAcquisitionOrder := by
  intro s₀ s t ops start noReset run
  have collects := collects_acceptedRaws (beginsWindow_of_reset_or_arm start) noReset run
  refine ⟨fun notFull => ⟨(collects notFull).notReady, (collects notFull).holds⟩, fun almost inFlight last => ?_⟩
  obtain ⟨u, performed, ready, holds⟩ := exec_convDone_completes (collects (by omega)) almost inFlight last
  refine ⟨u, performed, ready, fun k => ?_⟩
  have inside : k.val < (acceptedRaws ops s ++ [last]).length := by
    rw [List.length_append, List.length_singleton, almost]
    exact k.isLt
  exact ⟨_, List.getElem?_eq_getElem inside, holds k _ (List.getElem?_eq_getElem inside)⟩

/-! ## The TICKs of a window -/

/-- Of n TICKs, each stored sample and the conversion in flight took one, as long as they have not been 32. -/
def TicksSpent (n : Nat) (t : State) : Prop := 32 ≤ n ∨ (t.ready = false ∧ t.fill.toNat + t.pending.toNat ≤ n)

theorem TicksSpent.exec_keeps {n : Nat} {t u : State} {i : Instr} (spent : TicksSpent n t) (notReset : i ≠ .reset)
    (h : exec i t = .next u) : TicksSpent (n + [i].count .tick) u := by
  obtain enough | ⟨notReady, le⟩ := spent
  · exact .inl (by omega)
  cases exec_acquires notReset h with
  | unchanged same => exact .inr ⟨same.ready.trans notReady, by rw [same.fill, same.pending]; omega⟩
  | arm idle ready => simp [notReady] at ready
  | tick sampling free => exact .inr ⟨notReady, by simpa [free] using le⟩
  | store raw inFlight notLast =>
    refine .inr ⟨notReady, ?_⟩
    change (t.fill + 1).toNat ≤ n
    rw [inFlight] at le
    rwa [toNat_succ_fill notLast]
  | complete raw inFlight last => exact .inl (by simpa [last, inFlight] using le)

/-- Settles O22: the TICKs of the run pay for FILL and the conversion in flight, and READY is set at slot 31. -/
theorem windowNeedsThirtyTwoTicks : Obligations.WindowNeedsThirtyTwoTicks := by
  intro s₀ s t ops start noReset run ready
  obtain ⟨notReady, empty, free⟩ := beginsWindow_of_reset_or_arm start
  have spent : TicksSpent (ops.count .tick) t :=
    runOps_induction (P := fun ops => TicksSpent (ops.count .tick)) (.inr ⟨notReady, by simp [empty, free]⟩)
      (fun is i u v spent _ notReset performed => by rw [List.count_append]; exact spent.exec_keeps notReset performed)
      noReset run
  obtain enough | ⟨stillNotReady, -⟩ := spent
  · exact enough
  · simp [ready] at stillNotReady

/-! ## Requests and conversions (R103) -/

/-- A CONV_DONE leaves no conversion in flight. -/
theorem pending_eq_false_of_convDone {s t : State} {raw : RawReading} (h : exec (.convDone raw) s = .next t) :
    t.pending = false := by
  obtain ⟨idle, rfl⟩ | ⟨-, -, rfl⟩ | ⟨-, -, rfl⟩ := execConvDone_next h
  · exact idle
  · rfl
  · rfl

/-- PENDING rises by an accepted TICK alone, which drives conv_req. -/
theorem tick_of_pending_rises {s t : State} {i : Instr} (h : exec i s = .next t) (free : s.pending = false)
    (inFlight : t.pending = true) : i = .tick ∧ t.convReq = true := by
  by_cases isReset : i = .reset
  · subst isReset
    cases h
    cases inFlight
  cases exec_acquires isReset h with
  | unchanged same => simp [same.pending, free] at inFlight
  | arm => simp [free] at inFlight
  | tick => exact ⟨rfl, rfl⟩
  | store => cases inFlight
  | complete => cases inFlight

/-- Settles O24: PENDING is 0 after the first CONV_DONE and 1 before the second, and the operation that raises it between
them is a TICK. -/
theorem oneConversionPerRequest : Obligations.OneConversionPerRequest := by
  intro ops run follows contract n m raw raw' before first second
  have performed := follows n
  rw [first] at performed
  have requested : (run m).pending = true := contract m raw' second
  obtain ⟨k, le, stays, rises⟩ := exists_last_true (f := fun j => !(run j).pending) (n := n + 1)
    (by simp [pending_eq_false_of_convDone performed]) ⟨m, before, by simp [requested]⟩
  have inside : k < m := by
    by_contra beyond
    have free := stays m before (by omega)
    simp [requested] at free
  obtain ⟨isTick, driven⟩ := tick_of_pending_rises (follows k) (by simpa using stays k le le_rfl) (by simpa using rises)
  exact ⟨k, by omega, inside, isTick, driven⟩

end Sys2Proof.Machine
end

section
/-! R145 and R150 to R156 (spec/41_transform.md): bounds of the sums, the bins of a run in closed form, and what they depend
on. -/

namespace Sys2Proof.Machine

open Sys2Proof.Safety

/-! ## Bounds -/

theorem abs_sine_le (p : Params) (i : Nat) : |sine p i| ≤ 32768 :=
  abs_le.mpr ⟨BitVec.le_toInt _, (BitVec.toInt_lt (w := 16)).le⟩

/-- A sample times a table entry. -/
theorem abs_sample_mul_le {x y b : Int} (sample : |x| ≤ 8184) (entry : |y| ≤ b) : |x * y| ≤ 8184 * b := by
  rw [abs_mul]
  exact mul_le_mul sample entry (abs_nonneg y) (by decide)

/-- Settles O28: a sample is at most 8184 and a table entry at most 32768 in absolute value. -/
theorem productsFitThirtyTwoBits : Obligations.ProductsFitThirtyTwoBits := fun p _ _ _ samples =>
  ⟨abs_sample_mul_le (samples _) (abs_sine_le p _), abs_sample_mul_le (samples _) (abs_sine_le p _)⟩

/-- A sum of n terms of at most b. -/
theorem abs_sum_range_le {f : Nat → Int} {b : Int} (bounded : ∀ k, |f k| ≤ b) (n : Nat) :
    |∑ k ∈ Finset.range n, f k| ≤ n * b := by
  refine (Finset.abs_sum_le_sum_abs f _).trans ((Finset.sum_le_card_nsmul _ _ b fun k _ => bounded k).trans_eq ?_)
  rw [Finset.card_range, nsmul_eq_mul]

section
variable {p : Params} {x : Window} {u : Nat}

/-! ## The verdict from a bound on the partial sums (R147) -/

/-- Every partial sum is below 2^31 in absolute value. -/
def SumsInside (p : Params) (x : Window) (u : Nat) : Prop :=
  ∀ k ≤ 32, |cosSum p x u k| < 2 ^ 31 ∧ |sinSum p x u k| < 2 ^ 31

theorem leftRange_of_sumsInside (inside : SumsInside p x u) : leftRange p x u 32 = false := by
  rw [← Bool.not_eq_true, leftRange_iff]
  rintro ⟨k, -, le, left⟩
  obtain ⟨cos, sin⟩ := inside k le
  rw [outside32_iff, outside32_iff, reExact_eq_cosSum, imExact_eq_neg_sinSum] at left
  rw [abs_lt] at cos sin
  omega

/-- Truncating division brings no value below 2^31 to -2^31. -/
theorem tdiv_ne_of_abs_lt {a : Int} (inside : |a| < 2 ^ 31) (d : Int) : a.tdiv d ≠ -2 ^ 31 := by
  have le := Int.natAbs_tdiv_le_natAbs a d
  intro scaled
  rw [scaled] at le
  rw [abs_lt] at inside
  omega

theorem accumulators_of_sumsInside (inside : SumsInside p x u) :
    |reAcc p x u 32| < 2 ^ 31 ∧ |imAcc p x u 32| < 2 ^ 31 := by
  obtain ⟨re, im⟩ := accumulators_exact_of_inside (leftRange_of_sumsInside inside)
  rw [re, im, reExact_eq_cosSum, imExact_eq_neg_sinSum, abs_neg]
  exact inside 32 le_rfl

theorem scaled_ne_of_sumsInside (inside : SumsInside p x u) : reScaled p x u ≠ -2 ^ 31 ∧ imScaled p x u ≠ -2 ^ 31 := by
  obtain ⟨re, im⟩ := accumulators_of_sumsInside inside
  rw [reScaled, imScaled, tdiv, tdiv]
  exact ⟨tdiv_ne_of_abs_lt re _, tdiv_ne_of_abs_lt im _⟩

theorem binOverflow_of_sumsInside (inside : SumsInside p x u) : binOverflow p x u = false := by
  obtain ⟨re, im⟩ := accumulators_of_sumsInside inside
  rw [← Bool.not_eq_true, binOverflow_iff]
  rintro (left | scaled | scaled)
  · simp [leftRange_of_sumsInside inside] at left
  · exact tdiv_ne_of_abs_lt re _ scaled
  · exact tdiv_ne_of_abs_lt im _ scaled

/-- The bound of R151: 32 * 8184 * 8191 = 2145124608. -/
theorem sums_le_of_small_table (small : ∀ i, |sine p i| ≤ 8191) (samples : ∀ i, |x i| ≤ 8184) {k : Nat} (le : k ≤ 32) :
    |cosSum p x u k| ≤ 2145124608 ∧ |sinSum p x u k| ≤ 2145124608 := by
  have bound (f : Nat → Int) (le_entry : ∀ j, |f j| ≤ 8184 * 8191) : |∑ j ∈ Finset.range k, f j| ≤ 2145124608 := by
    have sum := abs_sum_range_le le_entry k
    omega
  exact ⟨bound _ fun _ => abs_sample_mul_le (samples _) (small _),
    bound _ fun _ => abs_sample_mul_le (samples _) (small _)⟩

end

/-! ## Without overflow (R150, R151) -/

/-- Settles O31: the accumulators are the exact sums, and truncating division divides absolute values. -/
theorem closedFormWithoutOverflow : Obligations.ClosedFormWithoutOverflow := by
  intro p x u noOverflow
  obtain ⟨-, -, exact⟩ := overflowVerdictIsExact p x u
  obtain ⟨re, im⟩ := exact noOverflow
  have divisor : (scaleDiv p).natAbs = (scaleDiv p).toNat := by have := scaleDiv_pos p; omega
  rw [magnitude, reScaled, imScaled, tdiv, tdiv, Int.natAbs_tdiv, Int.natAbs_tdiv, re, im, Int.natAbs_neg, divisor]
  rfl

/-- A table of the largest entry throughout. -/
def largestTable : Params :=
  { calOffset := 0, sineTable := Vector.replicate 32 0x7FFF, scaleDivPred := 0, base := 0 }

/-- Nine products of the largest sample and the largest entry are beyond 2^31. -/
theorem binOverflow_largestTable : binOverflow largestTable (fun _ => 8184) 0 = true := by
  have entry (i : Nat) : sine largestTable i = 32767 := by
    rw [sine, largestTable, Vector.get_replicate_eq]
    rfl
  have sum : cosSum largestTable (fun _ => 8184) 0 9 = 2413486152 := by
    simp only [cosSum, entry, Finset.sum_const, Finset.card_range, nsmul_eq_mul]
    norm_num
  refine binOverflow_iff _ _ _ |>.mpr (.inl ((leftRange_iff _ _ _ 32).mpr ⟨9, by decide, by decide, .inl ?_⟩))
  rw [outside32_iff, reExact_eq_cosSum, sum]
  decide

/-- Settles O32: the partial sums stay inside by `sums_le_of_small_table`, and `largestTable` overflows. -/
theorem smallTablesNeverOverflow : Obligations.SmallTablesNeverOverflow := by
  refine ⟨fun p x u small samples => ?_, largestTable, fun _ => 8184, 0, fun _ => le_rfl, binOverflow_largestTable⟩
  have sums (k : Nat) (le : k ≤ 32) := sums_le_of_small_table (u := u) small samples le
  have inside : SumsInside p x u := fun k le => by
    obtain ⟨cos, sin⟩ := sums k le
    omega
  obtain ⟨re, im⟩ := accumulators_of_sumsInside inside
  exact ⟨binOverflow_of_sumsInside inside, sums, re, im, scaled_ne_of_sumsInside inside⟩

/-! ## What the bins depend on (R153) -/

section
variable {p p' : Params} (x : Window) (u : Nat)

/-- Two configurations with the same table and the same divisor. -/
structure SameTransformConfig (p p' : Params) : Prop where
  table : p.sineTable = p'.sineTable
  divisor : p.scaleDivPred = p'.scaleDivPred

theorem sine_congr (same : SameTransformConfig p p') : sine p = sine p' := by
  funext i
  rw [sine, sine, same.table]

theorem scaleDiv_congr (same : SameTransformConfig p p') : scaleDiv p = scaleDiv p' := by
  rw [scaleDiv, scaleDiv, same.divisor]

theorem accumulators_congr (same : SameTransformConfig p p') (n : Nat) :
    reAcc p x u n = reAcc p' x u n ∧ imAcc p x u n = imAcc p' x u n := by
  induction n with
  | zero => exact ⟨rfl, rfl⟩
  | succ n ih =>
    obtain ⟨re, im⟩ := ih
    simp only [reAcc, imAcc, prodCos, prodSin, re, im, sine_congr same, and_self]

theorem leftRange_congr (same : SameTransformConfig p p') (n : Nat) : leftRange p x u n = leftRange p' x u n := by
  rw [Bool.eq_iff_iff, leftRange_iff, leftRange_iff]
  simp only [reExact_eq_cosSum, imExact_eq_neg_sinSum, cosSum, sinSum, sine_congr same]

theorem scaled_congr (same : SameTransformConfig p p') :
    reScaled p x u = reScaled p' x u ∧ imScaled p x u = imScaled p' x u := by
  obtain ⟨re, im⟩ := accumulators_congr x u same 32
  simp only [reScaled, imScaled, re, im, scaleDiv_congr same, and_self]

theorem magnitude_congr (same : SameTransformConfig p p') : magnitude p x u = magnitude p' x u := by
  obtain ⟨re, im⟩ := scaled_congr x u same
  rw [magnitude, magnitude, re, im]

theorem runOverflow_congr (same : SameTransformConfig p p') : runOverflow p x = runOverflow p' x := by
  have verdict (u : Nat) : binOverflow p x u = binOverflow p' x u := by
    obtain ⟨re, im⟩ := scaled_congr x u same
    rw [binOverflow, binOverflow, leftRange_congr x u same, re, im]
  rw [Bool.eq_iff_iff, runOverflow_iff, runOverflow_iff]
  simp only [verdict]

end

theorem publish_congr {s s' : State} (same : SameTransformConfig s.cfg s'.cfg) (window : s.window = s'.window) :
    s.publish.bin = s'.publish.bin ∧ s.publish.ovf = s'.publish.ovf := by
  simp only [State.publish_bin, State.publish_ovf, window, magnitude_congr _ _ same, runOverflow_congr _ same, and_self]

/-- Settles O33: `publish` reads the window, the table and the divisor. -/
theorem runsDependOnlyOnTheWindow : Obligations.RunsDependOnlyOnTheWindow := by
  intro s s' table divisor window busy busy'
  have same : s.window = s'.window := funext fun k => congrArg BitVec.toInt (window k)
  exact ⟨_, _, exec_xformDone_of_busy busy, exec_xformDone_of_busy busy', publish_congr ⟨table, divisor⟩ same⟩

/-- Settles O36: the window stays full with the samples of the START, under a configuration that nothing writes. -/
theorem runReadsTheWindowOfItsStart : Obligations.RunReadsTheWindowOfItsStart := by
  intro s₀ s t ops inv₀ ready₀ idle₀ start others run
  have inv := exec_keeps_inv inv₀ start
  rw [exec_cmdStart_of_accepted idle₀ ready₀] at start
  obtain ⟨busy, ready⟩ : s.busy = true ∧ s.ready = true := by cases start; exact ⟨rfl, ready₀⟩
  obtain ⟨full, running, cfg⟩ : StaysFull s t ∧ t.busy = true ∧ t.cfg = s.cfg := by
    refine runOps_keeps (P := fun u => StaysFull s u ∧ u.busy = true ∧ u.cfg = s.cfg)
      (fun i mem u v ⟨full, running, cfg⟩ performed => ?_) run ⟨⟨inv, ready, rfl, rfl⟩, busy, rfl⟩
    obtain ⟨notReset, notDone⟩ := others i mem
    exact ⟨full.exec_keeps notReset (fun _ => running) performed, exec_keeps_busy notReset notDone performed running,
      (exec_cfg performed).trans cfg⟩
  have window : t.window = s.window := State.window_congr full.win full.winWritten (written_of_ready inv ready)
  exact ⟨full.ready, running, full.win, full.winWritten, _, _, exec_xformDone_of_busy busy,
    exec_xformDone_of_busy running, publish_congr ⟨by rw [cfg], by rw [cfg]⟩ window.symm⟩

/-! ## Windows of zeros, and bin 0 (R155, R156) -/

section
variable (p : Params) {x : Window} (u : Nat)

theorem sums_of_zero (zero : ∀ i, x i = 0) (k : Nat) : cosSum p x u k = 0 ∧ sinSum p x u k = 0 := by
  simp [cosSum, sinSum, zero]

theorem binOverflow_of_zero (zero : ∀ i, x i = 0) : binOverflow p x u = false :=
  binOverflow_of_sumsInside fun k _ => by
    obtain ⟨cos, sin⟩ := sums_of_zero p u zero k
    simp [cos, sin]

theorem magnitude_of_zero (zero : ∀ i, x i = 0) : magnitude p x u = 0 := by
  obtain ⟨cos, sin⟩ := sums_of_zero p u zero 32
  rw [closedFormWithoutOverflow p x u (binOverflow_of_zero p u zero), cos, sin]
  simp

theorem runOverflow_of_zero (zero : ∀ i, x i = 0) : runOverflow p x = false := by
  rw [← Bool.not_eq_true, runOverflow_iff]
  simp [binOverflow_of_zero p _ zero]

end

/-- Settles O34: every product is 0, and the sample of CAL_OFFSET is 8 times a difference of 0. -/
theorem zeroWindowGivesZeroBins : Obligations.ZeroWindowGivesZeroBins := by
  refine ⟨fun p x u zero => ⟨fun k _ => sums_of_zero p u zero k, binOverflow_of_zero p u zero, magnitude_of_zero p u zero⟩,
    fun s busy slots => ⟨_, exec_xformDone_of_busy busy, fun u => ?_, ?_⟩, fun p raw isOffset => ?_⟩
  · have zero (k : Fin 32) : s.window k = 0 := congrArg BitVec.toInt (slots k)
    simp only [State.publish_bin, Vector.get_ofFn_eq, magnitude_of_zero s.cfg u.val zero]
    rfl
  · have zero (k : Fin 32) : s.window k = 0 := congrArg BitVec.toInt (slots k)
    simp only [State.publish_ovf, runOverflow_of_zero s.cfg zero]
  · rw [sample, sampleValue, calOffset, isOffset, sub_self, zero_mul]
    rfl

/-- For u = 0 every phase is 0 (R144), so that the sums take the same entry throughout. -/
theorem sums_of_bin_zero (p : Params) (x : Window) :
    cosSum p x 0 32 = sine p 8 * ∑ i : Fin 32, x i ∧ sinSum p x 0 32 = sine p 0 * ∑ i : Fin 32, x i := by
  rw [mul_comm, Finset.sum_mul, mul_comm, Finset.sum_mul]
  simp only [cosSum, sinSum, Nat.zero_mul, Nat.zero_mod, Nat.zero_add, Nat.reduceMod, Finset.sum_range,
    Fin.ofNat_val_eq_self, and_self]

theorem toNat_ofNat_magnitude (p : Params) (x : Window) (u : Nat) :
    (BitVec.ofNat 32 (magnitude p x u)).toNat = magnitude p x u := by
  have bound := magnitude_le p x u
  rw [BitVec.toNat_ofNat]
  omega

/-- Settles O35: the closed form of R150 over the sums of bin 0. -/
theorem binZeroMeasuresTheSum : Obligations.BinZeroMeasuresTheSum := by
  refine ⟨fun p x => ?_, fun s busy noOverflow => ⟨_, exec_xformDone_of_busy busy, ?_⟩⟩
  · obtain ⟨cos, sin⟩ := sums_of_bin_zero p x
    rw [reExact_eq_cosSum, imExact_eq_neg_sinSum, cos, sin, neg_mul]
    exact ⟨rfl, rfl⟩
  · obtain ⟨cos, sin⟩ := sums_of_bin_zero s.cfg s.window
    simp only [State.publish_bin, Vector.get_ofFn_eq, Fin.val_zero]
    rw [toNat_ofNat_magnitude, closedFormWithoutOverflow _ _ _ noOverflow, cos, sin]

end Sys2Proof.Machine
end

section
/-! What operations leave alone: the writers of each register (spec/10_state.md), reads (spec/20_memory.md R56), the
transition that records an error (spec/60_exceptions.md R221) and a refused START (spec/70_reset_and_hazards.md R258). -/

namespace Sys2Proof.Machine

open Sys2Proof.Safety

/-! ## Writers -/

/-- No operation takes from the inputs to come. -/
theorem exec_agenda {i : Instr} {s t : State} (h : exec i s = .next t) : t.agenda = s.agenda := by
  by_cases read : isRead i = true
  · obtain ⟨v, rfl⟩ := exec_read_next read h
    rfl
  cases i with
  | cmdNop | cmdClrerr | wrOther | reset => cases h; rfl
  | cmdRsvd => cases h; simp
  | cmdArm => obtain ⟨-, rfl⟩ | ⟨-, -, rfl⟩ | ⟨-, -, rfl⟩ := execCmdArm_next h <;> simp
  | cmdStart => obtain ⟨-, rfl⟩ | ⟨-, -, rfl⟩ | ⟨-, -, rfl⟩ := execCmdStart_next h <;> simp
  | convDone => obtain ⟨-, rfl⟩ | ⟨-, -, rfl⟩ | ⟨-, -, rfl⟩ := execConvDone_next h <;> simp
  | xformDone => obtain ⟨-, rfl⟩ := execXformDone_next h; simp
  | tick => obtain ⟨-, rfl⟩ | ⟨-, -, rfl⟩ := execTick_next h <;> simp
  | rdCmd | rdStatus | rdFill | rdErr | rdCalofs | rdWin | rdBinlo | rdBinhi | rdBinc | rdRsvd => exact absurd rfl read

section
variable {s t : State} {i : Instr}

/-- The writers of READY, SAMPLING and FILL (R24 to R26) and of PENDING (R27). -/
theorem exec_acquisition_writers (notReset : i ≠ .reset) (notConv : ∀ raw, i ≠ .convDone raw) (h : exec i s = .next t) :
    (i ≠ .cmdArm → t.ready = s.ready ∧ t.sampling = s.sampling ∧ t.fill = s.fill) ∧
      (i ≠ .tick → t.pending = s.pending) := by
  obtain same | ⟨rfl, -, -, rfl⟩ | ⟨rfl, -, -, rfl⟩ := exec_acquisition_next notReset notConv h
  · exact ⟨fun _ => ⟨same.ready, same.sampling, same.fill⟩, fun _ => same.pending⟩
  · exact ⟨absurd rfl, fun _ => rfl⟩
  · exact ⟨fun _ => ⟨rfl, rfl, rfl⟩, absurd rfl⟩

/-- The writer of WIN (R28). -/
theorem exec_window_writers (notReset : i ≠ .reset) (notConv : ∀ raw, i ≠ .convDone raw) (h : exec i s = .next t) :
    t.win = s.win ∧ t.winWritten = s.winWritten := by
  obtain kept | ⟨raw, isConv, -⟩ := exec_window_next notReset h
  · exact kept
  · exact absurd isConv (notConv raw)

/-- The writers of BUSY, DONE and OVF (R29 to R31) and of BIN (R32). -/
theorem exec_transform_writers (notReset : i ≠ .reset) (notDone : i ≠ .xformDone) (h : exec i s = .next t) :
    (i ≠ .cmdStart → t.busy = s.busy ∧ t.done = s.done ∧ t.ovf = s.ovf) ∧ t.bin = s.bin := by
  obtain same | ⟨rfl, -, -, rfl⟩ := exec_transform_next notReset notDone h
  · exact ⟨fun _ => ⟨same.busy, same.done, same.ovf⟩, same.bin⟩
  · exact ⟨absurd rfl, rfl⟩

/-- The writers of ERRCODE (R34). -/
theorem exec_errcode_writers (notReset : i ≠ .reset) (notRsvd : ∀ d, i ≠ .cmdRsvd d) (notStart : i ≠ .cmdStart)
    (notArm : i ≠ .cmdArm) (notClrerr : i ≠ .cmdClrerr) (h : exec i s = .next t) : t.errcode = s.errcode := by
  obtain same | ⟨reset | clrerr, -⟩ | ⟨e, raises, -⟩ := exec_errcode_next h
  · exact same
  · exact absurd reset notReset
  · exact absurd clrerr notClrerr
  · cases raises with
    | rsvdCmd d => exact absurd rfl (notRsvd d)
    | startBusy | startNotReady => exact absurd rfl notStart
    | armBusy | armNotReady => exact absurd rfl notArm

end

/-- Settles O60: the writers group by group. -/
theorem stateIsWrittenOnlyByItsWriters : Obligations.StateIsWrittenOnlyByItsWriters := fun _ _ _ h notReset =>
  ⟨fun notArm notConv => (exec_acquisition_writers notReset notConv h).1 notArm,
    fun notTick notConv => (exec_acquisition_writers notReset notConv h).2 notTick,
    fun notConv => exec_window_writers notReset notConv h,
    fun notStart notDone => (exec_transform_writers notReset notDone h).1 notStart,
    fun notDone => (exec_transform_writers notReset notDone h).2,
    fun notRsvd notStart notArm notClrerr => exec_errcode_writers notReset notRsvd notStart notArm notClrerr h,
    exec_agenda h⟩

/-! ## Errors -/

/-- Settles O55: an error is recorded by `raise` on `begin`, and both leave the registers. -/
theorem raisingAnErrorChangesNothingElse : Obligations.RaisingAnErrorChangesNothingElse := by
  intro s t i h notReset notClrerr changed
  obtain same | ⟨reset | clrerr, -⟩ | ⟨e, -, rfl⟩ := exec_errcode_next h
  · exact absurd same changed
  · exact absurd reset notReset
  · exact absurd clrerr notClrerr
  · refine ⟨s.epoch + 1, ?_⟩
    rw [State.raise_eq]
    rfl

/-- No operation but START begins a run. -/
theorem exec_keeps_idle {s t : State} {i : Instr} (notStart : i ≠ .cmdStart) (idle : s.busy = false)
    (h : exec i s = .next t) : t.busy = false := by
  by_cases isReset : i = .reset
  · subst isReset
    cases h
    rfl
  by_cases isDone : i = .xformDone
  · subst isDone
    simp [exec_xformDone_of_idle idle] at h
  obtain ⟨busy, -⟩ := (exec_transform_writers isReset isDone h).1 notStart
  exact busy.trans idle

/-- Settles O56: READY = 0 goes with BUSY = 0, which the refused START and every other operation leave. -/
theorem refusedStartIsNotDeferred : Obligations.RefusedStartIsNotDeferred := by
  intro s t u ops inv notReady start others run
  obtain ⟨-, -, -, busyIsReady, -⟩ := inv
  have idle : s.busy = false := by simpa [BusyIsReady, notReady] using busyIsReady
  rw [exec_cmdStart_of_not_ready idle notReady] at start
  cases start
  have stillIdle : (s.begin.raise .startNotReady).busy = false := by rwa [State.raise_busy]
  exact ⟨stillIdle, runOps_keeps (P := fun v => v.busy = false)
    (fun i mem _ _ kept performed => exec_keeps_idle (others i mem) kept performed) run stillIdle⟩

/-! ## Reads -/

/-- A state with other outputs of its last transition. -/
def State.withOutputs (s : State) (c : Bool) (r : Option BusData) : State := { s with convReq := c, readData := r }

/-- A read returns a value that the outputs of the last transition have no part in. -/
theorem exec_read {i : Instr} (read : isRead i = true) (s : State) :
    ∃ v, ∀ c r, exec i (s.withOutputs c r) = .next (s.withOutputs false (some v)) := by
  cases i with
  | rdCmd | rdRsvd => exact ⟨0x0000, fun _ _ => rfl⟩
  | rdStatus => exact ⟨s.statusWord, fun _ _ => rfl⟩
  | rdFill => exact ⟨s.fillWord, fun _ _ => rfl⟩
  | rdErr => exact ⟨s.errWord, fun _ _ => rfl⟩
  | rdCalofs => exact ⟨s.calofsWord, fun _ _ => rfl⟩
  | rdWin k => exact ⟨s.readWin k, fun _ _ => rfl⟩
  | rdBinlo u => exact ⟨s.binLo u, fun _ _ => rfl⟩
  | rdBinhi u => exact ⟨s.binHi u, fun _ _ => rfl⟩
  | rdBinc u => exact ⟨s.bincWord u, fun _ _ => rfl⟩
  | cmdNop | cmdArm | cmdStart | cmdClrerr | cmdRsvd | wrOther | reset | convDone | tick | xformDone => cases read

/-- Reads change no more than the outputs, however many there are. -/
theorem runOps_reads {ops : List Instr} (reads : ∀ j ∈ ops, isRead j = true) (s : State) (c : Bool) (r : Option BusData) :
    ∃ c' r', runOps ops (s.withOutputs c r) = some (s.withOutputs c' r') := by
  induction ops generalizing c r with
  | nil => exact ⟨c, r, rfl⟩
  | cons i is ih =>
    obtain ⟨v, performed⟩ := exec_read (reads i (.head is)) s
    obtain ⟨c', r', rest⟩ := ih (fun j mem => reads j (.tail i mem)) false (some v)
    exact ⟨c', r', runOps_cons.mpr ⟨_, performed c r, rest⟩⟩

/-- Settles O48: the states along a run of reads differ in the outputs alone. -/
theorem readsHaveNoSideEffect : Obligations.ReadsHaveNoSideEffect := by
  intro i s read
  obtain ⟨v, performed⟩ := exec_read read s
  refine ⟨v, performed s.convReq s.readData, fun ops reads => ?_⟩
  obtain ⟨c, r, run⟩ := runOps_reads reads s s.convReq s.readData
  exact ⟨_, run, performed c r⟩

end Sys2Proof.Machine
end

section
/-! R50 and R54 (spec/20_memory.md): the addresses and the bytes under which a host sees the registers. -/

namespace Sys2Proof.Machine

section
variable (s : State) {a : Offset} (u : Fin 16)

theorem State.regRead_of_binLo (offset : a.toNat / 2 = 64 + 2 * u.val) : s.regRead a = s.binLo u := by
  have slot : Fin.ofNat 16 ((2 * (a.toNat / 2) - 0x80) / 4) = u := Fin.ext (by rw [Fin.val_ofNat]; omega)
  simp (disch := omega) only [State.regRead, if_pos, if_neg]
  rw [slot]

theorem State.regRead_of_binHi (offset : a.toNat / 2 = 65 + 2 * u.val) : s.regRead a = s.binHi u := by
  have slot : Fin.ofNat 16 ((2 * (a.toNat / 2) - 0x82) / 4) = u := Fin.ext (by rw [Fin.val_ofNat]; omega)
  simp (disch := omega) only [State.regRead, if_pos, if_neg]
  rw [slot]

/-- Bit 0 of the offset selects the byte. -/
theorem State.regByte_eq : s.regByte a = (s.regRead a).extractLsb' (8 * (a.toNat % 2)) 8 := by
  obtain even | odd := Nat.mod_two_eq_zero_or_one a.toNat
  · rw [State.regByte, if_pos even, even]
  · rw [State.regByte, if_neg (by omega), odd]

end

/-- Settles O50: bytes 0 and 1 are those of BINLO, bytes 2 and 3 those of BINHI. -/
theorem binBytesAreLittleEndian : Obligations.BinBytesAreLittleEndian := by
  intro s u j
  have offset := toNat_offset (n := 0x80 + 4 * u.val + j.val) (by omega)
  obtain lo | hi : j.val < 2 ∨ 2 ≤ j.val := by omega
  · rw [s.regByte_eq, s.regRead_of_binLo u (by omega), State.binLo, extractLsb'_of_extractLsb' _ 0 16 (by omega), offset]
    congr 1
    omega
  · rw [s.regByte_eq, s.regRead_of_binHi u (by omega), State.binHi, extractLsb'_of_extractLsb' _ 16 16 (by omega), offset]
    congr 1
    omega

/-- Settles O51: the two branches of `hostOffset`; inside the window the offset fits 8 bits. -/
theorem hostAddressesReachTheBlockAtBase : Obligations.HostAddressesReachTheBlockAtBase := by
  refine fun p a => ⟨fun lo hi => ⟨_, if_pos ⟨lo, hi⟩, ?_⟩, fun outside => if_neg (by omega)⟩
  rw [toNat_offset (by omega)]
  omega

end Sys2Proof.Machine
end

section
/-! R20 (spec/10_state.md) and R75 (spec/30_encoding.md): a step performs what its next input decodes to. -/

namespace Sys2Proof.Machine

/-! ## The cycle of one encoding -/

theorem fetch_of_bus {w : BusWord} {i : Instr} (decoded : decodeBus w = .ok i) :
    (Cycle.of (.bus w)).fetch = .op i Cycle.empty :=
  fetch_of_access decoded

theorem fetch_of_refused {w : BusWord} {r : Reject} (refused : decodeBus w = .error r) :
    (Cycle.of (.bus w)).fetch = .reject r := by
  simp [Cycle.of, Cycle.fetch, refused]

/-- One event leaves nothing of its vector. -/
theorem fetch_of_single_event {v : EvtWord} {i : Instr} (event : decodeEvt v = [i]) :
    (Cycle.of (.evt v)).fetch = .op i Cycle.empty := by
  obtain ⟨r, reset⟩ | ⟨-, -, -, both⟩ | ⟨notR, -, notT, -⟩ | ⟨notR, notC, -, -⟩ | ⟨-, -, -, none⟩ := decodeEvt_cases v
  · obtain ⟨rfl, -⟩ := List.cons.inj (reset.symm.trans event)
    exact fetch_of_reset r
  · simp [both] at event
  · rw [fetch_of_event (c := Cycle.of (.evt v)) notR event, Cycle.of, evtLeft_of_single notR (.inr notT)]
    rfl
  · rw [fetch_of_event (c := Cycle.of (.evt v)) notR event, Cycle.of, evtLeft_of_single notR (.inl notC)]
    rfl
  · simp [none] at event

/-- Two events are CONV_DONE and TICK, and the first leaves the vector of the second. -/
theorem fetch_of_two_events {v : EvtWord} {i j : Instr} (events : decodeEvt v = [i, j]) :
    j = .tick ∧ (Cycle.of (.evt v)).fetch = .op i (Cycle.of (.evt 0x0800)) := by
  obtain ⟨-, h⟩ | ⟨notR, c, t, both⟩ | ⟨-, -, -, h⟩ | ⟨-, -, -, h⟩ | ⟨-, -, -, h⟩ := decodeEvt_cases v
  · simp [h] at events
  · obtain ⟨rfl, rfl⟩ : .convDone (evtV v) = i ∧ .tick = j := by simpa [both] using events
    exact ⟨rfl, fetch_convDone_and_tick notR c t⟩
  · simp [h] at events
  · simp [h] at events
  · simp [h] at events

theorem fetch_of_no_events {v : EvtWord} (none : decodeEvt v = []) : (Cycle.of (.evt v)).fetch = .idle := by
  simp [Cycle.of, Cycle.fetch, none]

/-! ## The step -/

/-- Settles O10: per encoding, what its cycle holds next and what is then left of it. -/
theorem stepRunsTheDecodedOperation : Obligations.StepRunsTheDecodedOperation := by
  refine fun s rest => ⟨fun w i present decoded => step_of_fetch present (fetch_of_bus decoded),
    fun w r present refused => ?_, fun v i present event => step_of_fetch present (fetch_of_single_event event),
    fun v i j present events => ?_, fun v present none => ?_, fun present => step_of_fetch present rfl, fun nothing => ?_⟩
  · obtain ⟨-, rfl⟩ := decodeBus_error refused
    simp only [step, present, fetch_of_refused refused]
    rfl
  · obtain ⟨rfl, fetched⟩ := fetch_of_two_events events
    exact step_of_fetch present fetched
  · simp only [step, present, fetch_of_no_events none]
    rfl
  · have idle : step s = .next s.idle := by simp only [step, nothing]
    exact idle

end Sys2Proof.Machine
end
